-- ==== Sys2Proof/Word.lean ====
section
/-! DEFINITION. The word types and the fixed sizes of the block (00_scope.md R6 to R8, R13, R14). -/

namespace Sys2Proof

/-- A 32-bit register or command word (R14). -/
abbrev Word := BitVec 32

/-- An 8-bit FIFO entry or interface code (R71, R110). -/
abbrev Byte := BitVec 8

/-- A plane word (R13). It is 64 bits wide here; at W = 32 only its low 32 bits belong to the machine (log entry 11). -/
abbrev Plane := BitVec 64

/-- STATE_SIZE, the cells of one sponge state (R6). -/
abbrev stateSize : Nat := 729

/-- BLOCK_SIZE, the digits of one lane absorbed or squeezed per block (R7). -/
abbrev blockSize : Nat := 243

/-- ROUNDS, the rounds of one transform (R8). -/
abbrev roundCount : Nat := 81

/-- The entries of the permutation table, STATE_SIZE + 1 (R9). -/
abbrev tableSize : Nat := 730

/-- The names a 4-bit context field can hold, 0 to 15 (R10). -/
abbrev slotCount : Nat := 16

/-- A context number as a command's CTX or SRC field holds it (R92 to R94). -/
abbrev CtxIdx := BitVec 4

/-- A ternary digit: `neg` is -1, `zero` is 0, `pos` is +1 (R13). -/
inductive Digit where
  | neg
  | zero
  | pos
  deriving DecidableEq, Repr, Inhabited

/-- The array of the values of `f`. It is a list underneath, so that the kernel evaluates a lookup in it step by step. -/
def tabulate {α : Type} {n : Nat} (f : Fin n → α) : Vector α n := ⟨((List.finRange n).map f).toArray, by simp⟩

@[simp] theorem getElem_tabulate {α : Type} {n : Nat} (f : Fin n → α) (i : Nat) (h : i < n) :
    (tabulate f)[i] = f ⟨i, h⟩ := by
  simp [tabulate]

end Sys2Proof
end

