-- ==== Sys2Proof/Syntax.lean ====
section
/-! DEFINITION. The seven commands of 30_encoding.md R91, one constructor per row of opcode_table.json, with the operand fields
of formats S, P and C (R92 to R94). Each field has exactly the width the format gives it, so every term encodes. -/

namespace Sys2Proof

/-- A command: its opcode and its operand fields, none scaled or offset (R95). -/
inductive Instr where
  /-- RESET c (41_state_ops.md R130). -/
  | reset (ctx : CtxIdx)
  /-- CLONE d, s (41_state_ops.md R133). -/
  | clone (dst : CtxIdx) (src : CtxIdx)
  /-- ABSORB c, B (43_protocol.md R172). -/
  | absorb (ctx : CtxIdx) (batch : BitVec 7)
  /-- SQUEEZE c, B (43_protocol.md R178). -/
  | squeeze (ctx : CtxIdx) (batch : BitVec 7)
  /-- PERMUTE c (42_permutation.md R150). -/
  | permute (ctx : CtxIdx)
  /-- ENCODE c, i, j, v (40_codec.md R115). -/
  | encode (ctx : CtxIdx) (cell : BitVec 10) (lane : BitVec 6) (digit : Byte)
  /-- DECODE c, i, j (40_codec.md R118). -/
  | decode (ctx : CtxIdx) (cell : BitVec 10) (lane : BitVec 6)
  deriving DecidableEq, Repr

end Sys2Proof
end

