-- ==== Sys2Proof/Decode.lean ====
section
/-! DEFINITION. The decoder and the encoder of command words (30_encoding.md R90 to R98). Decoding is total: every word is one
command or is rejected by name, and a rejected word ends as ILLEGAL_COMMAND (R96 to R98). -/

namespace Sys2Proof

/-- Why a word is no command: both cases end as ILLEGAL_COMMAND (60_exceptions.md R200, code 4). -/
inductive DecodeError where
  /-- OP is 0x0 or 0x8 to 0xF (R97). -/
  | reservedOp (op : BitVec 4)
  /-- A 1 stands in a bit that the command's format marks reserved (R96). -/
  | reservedBits (op : BitVec 4)
  /-- Fewer than four bytes: no whole word (only `decodeBytes` answers this; a CMD write always carries a word, R61). -/
  | truncated
  deriving DecidableEq, Repr

/-- OP = w[3:0] (R90). -/
def fieldOp (w : Word) : BitVec 4 := w.extractLsb' 0 4

/-- CTX = w[7:4] (R95). -/
def fieldCtx (w : Word) : CtxIdx := w.extractLsb' 4 4

/-- SRC = w[11:8] (R95). -/
def fieldSrc (w : Word) : CtxIdx := w.extractLsb' 8 4

/-- BATCH = w[14:8] (R95). -/
def fieldBatch (w : Word) : BitVec 7 := w.extractLsb' 8 7

/-- CELL = w[17:8] (R95). -/
def fieldCell (w : Word) : BitVec 10 := w.extractLsb' 8 10

/-- LANE = w[23:18] (R95). -/
def fieldLane (w : Word) : BitVec 6 := w.extractLsb' 18 6

/-- DIGIT = w[31:24] (R95). -/
def fieldDigit (w : Word) : Byte := w.extractLsb' 24 8

/-- The must-be-zero masks of R96, by opcode; `none` for a reserved opcode (R97). -/
def mustBeZero (op : BitVec 4) : Option Word :=
  match op.toNat with
  | 1 => some 0xFFFFFF00#32
  | 2 => some 0xFFFFF000#32
  | 3 => some 0xFFFF8000#32
  | 4 => some 0xFFFF8000#32
  | 5 => some 0xFFFFFF00#32
  | 6 => some 0x00000000#32
  | 7 => some 0xFF000000#32
  | _ => none

/-- The command a word with an assigned opcode names, its reserved bits set aside (R91 to R95). -/
def operands (w : Word) : Option Instr :=
  match (fieldOp w).toNat with
  | 1 => some (.reset (fieldCtx w))
  | 2 => some (.clone (fieldCtx w) (fieldSrc w))
  | 3 => some (.absorb (fieldCtx w) (fieldBatch w))
  | 4 => some (.squeeze (fieldCtx w) (fieldBatch w))
  | 5 => some (.permute (fieldCtx w))
  | 6 => some (.encode (fieldCtx w) (fieldCell w) (fieldLane w) (fieldDigit w))
  | 7 => some (.decode (fieldCtx w) (fieldCell w) (fieldLane w))
  | _ => none

/-- Decode a command word (R98): a command, or the reason it is ILLEGAL_COMMAND. -/
def decode (w : Word) : Except DecodeError Instr :=
  match operands w, mustBeZero (fieldOp w) with
  | some i, some m => if w &&& m = 0#32 then .ok i else .error (.reservedBits (fieldOp w))
  | _, _ => .error (.reservedOp (fieldOp w))

/-- A field's value placed in a 32-bit word with its least significant bit at bit `lo`; the other bits are 0. -/
def place {n : Nat} (v : BitVec n) (lo : Nat) : Word := v.setWidth 32 <<< lo

/-- The word of a command: each field at the bits R92 to R94 give it. -/
def encode : Instr → Word
  | .reset c => place c 4 ||| place 0x1#4 0
  | .clone d s => place s 8 ||| place d 4 ||| place 0x2#4 0
  | .absorb c b => place b 8 ||| place c 4 ||| place 0x3#4 0
  | .squeeze c b => place b 8 ||| place c 4 ||| place 0x4#4 0
  | .permute c => place c 4 ||| place 0x5#4 0
  | .encode c i j v => place v 24 ||| place j 18 ||| place i 8 ||| place c 4 ||| place 0x6#4 0
  | .decode c i j => place j 18 ||| place i 8 ||| place c 4 ||| place 0x7#4 0

/-- One row of opcode_table.json: a word is this command's when its bits under the mask are the pattern's. -/
structure Row where
  mnemonic : String
  pattern : Word
  mask : Word
  deriving DecidableEq, Repr

/-- The seven rows of opcode_table.json, as its `match` and `mask` columns give them. -/
def opcodeTable : List Row :=
  [ { mnemonic := "RESET", pattern := 0x00000001#32, mask := 0xFFFFFF0F#32 },
    { mnemonic := "CLONE", pattern := 0x00000002#32, mask := 0xFFFFF00F#32 },
    { mnemonic := "ABSORB", pattern := 0x00000003#32, mask := 0xFFFF800F#32 },
    { mnemonic := "SQUEEZE", pattern := 0x00000004#32, mask := 0xFFFF800F#32 },
    { mnemonic := "PERMUTE", pattern := 0x00000005#32, mask := 0xFFFFFF0F#32 },
    { mnemonic := "ENCODE", pattern := 0x00000006#32, mask := 0x0000000F#32 },
    { mnemonic := "DECODE", pattern := 0x00000007#32, mask := 0xFF00000F#32 } ]

/-- Whether a word is a row's. -/
def Row.matches (r : Row) (w : Word) : Bool := w &&& r.mask == r.pattern

/-- The mnemonic of a command (30_encoding.md R91). -/
def Instr.mnemonic : Instr → String
  | .reset _ => "RESET"
  | .clone _ _ => "CLONE"
  | .absorb _ _ => "ABSORB"
  | .squeeze _ _ => "SQUEEZE"
  | .permute _ => "PERMUTE"
  | .encode _ _ _ _ => "ENCODE"
  | .decode _ _ _ => "DECODE"

/-- A register word from the four bytes a platform bus presents, byte +0 in bits [7:0] (20_memory.md R63). -/
def wordOfBytes (b0 b1 b2 b3 : Byte) : Word := place b3 24 ||| place b2 16 ||| place b1 8 ||| place b0 0

/-- The four bytes of a register word, byte +0 first (20_memory.md R63). -/
def bytesOfWord (w : Word) : List Byte :=
  [w.extractLsb' 0 8, w.extractLsb' 8 8, w.extractLsb' 16 8, w.extractLsb' 24 8]

/-- Decode a command from its bytes in bus order and answer the rest of the bytes; every command is four bytes (R90). -/
def decodeBytes : List Byte → Except DecodeError (Instr × List Byte)
  | b0 :: b1 :: b2 :: b3 :: rest =>
    match decode (wordOfBytes b0 b1 b2 b3) with
    | .ok i => .ok (i, rest)
    | .error e => .error e
  | _ => .error .truncated

/-- The word whose low `nbits` bits are those of `w` and whose other bits are 0. -/
def tableWord (nbits w : Nat) : Word := BitVec.ofNat 32 (w % 2 ^ nbits)

/-- The command the decoder reads from a word numbered as opcode_table.json numbers its bits (log entry 27). -/
def decodeTableWord (nbits w : Nat) : Option Instr :=
  match decodeBytes (bytesOfWord (tableWord nbits w)) with
  | .ok (i, _) => some i
  | .error _ => none

end Sys2Proof
end

