-- ==== Sys2Proof/Config.lean ====
section
/-! DEFINITION. The parameters an implementation fixes (00_scope.md R5, R9 to R12; 92_eei_decisions.md, "Open parameters"),
their reference values, and the model's free values. The parameters are plain data, held in `State.cfg` and written by no step. -/

namespace Sys2Proof

/-- The legal lane counts (R5). -/
inductive LaneWidth where
  | w32
  | w64
  deriving DecidableEq, Repr, Inhabited

/-- `W` as a number (R5). -/
def LaneWidth.lanes : LaneWidth → Nat
  | .w32 => 32
  | .w64 => 64

/-- The two agents of R75. -/
inductive Agent where
  | host
  | core
  deriving DecidableEq, Repr, Inhabited

/-- The implementation parameters (00_scope.md section 3). -/
structure Config where
  /-- The lane count W (R5). -/
  width : LaneWidth
  /-- CTX_COUNT, 1 to 16 (R10). -/
  ctxCount : Nat
  /-- IFIFO_DEPTH, 1 to 65535 (R11). -/
  ififoDepth : Nat
  /-- OFIFO_DEPTH, 1 to 65535 (R11). -/
  ofifoDepth : Nat
  /-- PERM_TABLE, 730 indices in [0, 729) (R9, R25, R143). -/
  permTable : Vector (Fin stateSize) tableSize
  deriving DecidableEq, Repr

/-- `W`, also `MaxBatchSize` (R5). -/
def Config.lanes (g : Config) : Nat := g.width.lanes

/-- The parameters lie in their legal ranges (R10, R11); the other two are legal by their types (R5, R9). -/
abbrev Config.Valid (g : Config) : Prop :=
  1 ≤ g.ctxCount ∧ g.ctxCount ≤ 16 ∧ 1 ≤ g.ififoDepth ∧ g.ififoDepth ≤ 65535 ∧ 1 ≤ g.ofifoDepth ∧ g.ofifoDepth ≤ 65535

/-- The default table `T[k] = (364·k) mod 729` (R143; 93_implementation_defined.md G2: general knowledge, log entry 15). -/
def Config.defaultTable : Vector (Fin stateSize) tableSize :=
  tabulate fun k => ⟨364 * k.val % 729, Nat.mod_lt _ (Nat.zero_lt_succ _)⟩

/-- The reference configuration: W = 64, CTX_COUNT = 2, both FIFO depths 256 (R5, R10, R11), the default table. -/
def Config.reference : Config :=
  { width := .w64, ctxCount := 2, ififoDepth := 256, ofifoDepth := 256, permTable := Config.defaultTable }

/-- CSR_BASE is OPEN (R12, R81): a free value (log entry 8). -/
opaque Config.csrBase : Nat

/-- Which agent moves at the n-th choice that `State.turns` does not settle: a free value, since every interleaving of host
accesses and core micro-steps is an execution (R76; 93_implementation_defined.md I6; log entry 5). -/
opaque Config.freeTurn : Nat → Agent

end Sys2Proof
end

