-- ==== Sys2Proof/Machine/State.lean ====
section
/-! DEFINITION. The state of the block (10_state.md R20 to R50), with the host's pending accesses beside it, the reasons a step
can stop, and the state after hardware reset. State is plain data. -/

namespace Sys2Proof.Machine

/-- One cell: the positive and the negative plane word (10_state.md R20). -/
structure Cell where
  p : Plane
  n : Plane
  deriving DecidableEq, Repr, Inhabited

/-- The digit 0 in every lane: both planes clear (10_state.md R21). -/
def Cell.zero : Cell := { p := 0#64, n := 0#64 }

/-- The direction flag (10_state.md R20). -/
inductive Direction where
  | absorbing
  | squeezing
  deriving DecidableEq, Repr, Inhabited

/-- The 729 cells of one plane-pair array (10_state.md R20, R26). -/
abbrev Cells := Vector Cell stateSize

/-- All cells (0, 0). -/
def Cells.zero : Cells := Vector.replicate stateSize Cell.zero

/-- One context: its cells `P[c]`, `N[c]` and `DIR[c]` (10_state.md R20). -/
structure Context where
  cells : Cells
  dir : Direction
  deriving DecidableEq, Repr

/-- The context of the reset state and of RESET (10_state.md R50, 41_state_ops.md R130). -/
def Context.zero : Context := { cells := Cells.zero, dir := .absorbing }

/-- Which array is the current input of the permutation engine (10_state.md R26). -/
inductive BufferRole where
  | contextIn
  | scratchIn
  deriving DecidableEq, Repr, Inhabited

/-- The permutation engine's hidden state: the scratch arrays TP and TN, the buffer-role flag and the round counter
(10_state.md R26; log entry 13). -/
structure Engine where
  scratch : Cells
  role : BufferRole
  round : Nat
  deriving DecidableEq, Repr

/-- The engine right after reset: R26 and R50 leave it unspecified, and these values are the model's (DESIGN CHOICE, unsafe,
log entry 13); no rule reads them. -/
def Engine.reset : Engine := { scratch := Cells.zero, role := .contextIn, round := 0 }

/-- The result codes of STATUS.ERR (60_exceptions.md R200); 9 to 15 are never produced. -/
inductive ErrCode where
  | ok
  | invalidBatchSize
  | invalidAbsorbLength
  | invalidSqueezeLength
  | illegalCommand
  | invalidContext
  | invalidCell
  | invalidLane
  | absorbAfterSqueeze
  deriving DecidableEq, Repr, Inhabited

/-- Where a running command stands: the micro-step it runs next, with its block index b, lane j and digit position k
(10_state.md R27, R41). -/
inductive Pos where
  /-- The single step of RESET, CLONE, ENCODE or DECODE. -/
  | whole
  /-- The transform that ends block b of ABSORB, or PERMUTE's (b = 0). -/
  | transform (b : Nat)
  /-- The trit merge of digit k of lane j of block b (ABSORB). -/
  | merge (b j k : Nat)
  /-- The start of block b of SQUEEZE: the test of DIR and the step it selects (43_protocol.md R178). -/
  | blockStart (b : Nat)
  /-- The direction write of block b of SQUEEZE, after the block's transform. -/
  | direction (b : Nat)
  /-- The trit emit of digit k of lane j of block b (SQUEEZE). -/
  | emit (b j k : Nat)
  /-- The final `complete()` of PERMUTE, ABSORB or SQUEEZE. -/
  | finish
  deriving DecidableEq, Repr

/-- The controller's sequencing state while Busy: the latched command, the latched LEN and the position (10_state.md R27, R40). -/
structure Running where
  cmd : Instr
  len : Word
  pos : Pos
  deriving DecidableEq, Repr

/-- What reaches the block from outside: the host's accesses, named by their offset from CSR_BASE and their width in bytes
(00_scope.md R18, 30_encoding.md R99), and the reset input (70_reset_and_hazards.md R230). -/
inductive HostInput where
  /-- `MemRead(CSR_BASE + off, size)`. -/
  | read (off size : Nat)
  /-- `MemWrite(CSR_BASE + off, size, v)`. -/
  | write (off size : Nat) (v : Word)
  /-- Hardware reset is asserted. -/
  | hardReset
  deriving DecidableEq, Repr

/-- The state: the block's own, then the four fields that hold the world around it. -/
structure State where
  /-- The implementation parameters and PERM_TABLE, constant (10_state.md R25, R38, R42). -/
  cfg : Config
  /-- The contexts by number; those at or past CTX_COUNT are no part of the machine and stay zero (R20, log entry 12). -/
  ctxs : Vector Context slotCount
  /-- The permutation engine's hidden state (R26). -/
  engine : Engine
  /-- `none` is phase Idle, `some` is phase Busy (R27); STATUS.BUSY (R32). -/
  run : Option Running
  /-- STATUS.FATAL (R32). -/
  fatal : Bool
  /-- STATUS.OVERRUN (R32). -/
  overrun : Bool
  /-- STATUS.IN_OVERFLOW (R32). -/
  inOverflow : Bool
  /-- STATUS.OUT_UNDERFLOW (R32). -/
  outUnderflow : Bool
  /-- STATUS.ERR (R32). -/
  err : ErrCode
  /-- LEN (R33). -/
  len : Word
  /-- RESULT (R34). -/
  result : Word
  /-- The input trit FIFO, oldest entry first (20_memory.md R70). -/
  inFifo : List Byte
  /-- The output trit FIFO, oldest entry first (20_memory.md R70). -/
  outFifo : List Byte
  /-- MODEL: the accesses the host has still to make and the resets still to come, in order (R75; log entry 4). -/
  inputs : List HostInput
  /-- MODEL: the words the host's reads returned, newest first (R18; log entry 4). -/
  seen : List Word
  /-- MODEL: who moves at the next choices between the two agents (R76; log entry 5). -/
  turns : List Agent
  /-- MODEL: how many choices were made, the argument of `Config.freeTurn` (log entry 5). -/
  clock : Nat
  deriving DecidableEq, Repr

/-- Why the machine stops with a fault. No command does: every failure of a command is a code in STATUS (R200). -/
inductive Fault where
  /-- Raised by a host access (`hostRead`, `hostWrite`) at an offset past the 64-byte window, which is no register of the block
  (10_state.md R30, 20_memory.md R81). Safe: the model stops, the hardware is not addressed (log entry 9). -/
  | outsideWindow (off : Nat)
  deriving DecidableEq, Repr

/-- Why the machine refuses a step. -/
inductive Refusal where
  /-- Raised by `exec` for a command without a meaning; no arm answers it. Safe. -/
  | notModelled (mnemonic : String)
  /-- Raised by a host access that is not 32 bits wide, as 20_memory.md R62 asks of a model. Safe (log entry 10). -/
  | accessWidth (size : Nat)
  /-- Raised by a host access at an offset that is no multiple of 4, as 20_memory.md R62 asks of a model. Safe (log entry 10). -/
  | misaligned (off : Nat)
  deriving DecidableEq, Repr

/-- The machine of configuration `g` right after hardware reset, with nothing asked of it: the values of 10_state.md R50. -/
def State.resetOf (g : Config) : State :=
  { cfg := g
    ctxs := Vector.replicate slotCount Context.zero
    engine := Engine.reset
    run := none
    fatal := false
    overrun := false
    inOverflow := false
    outUnderflow := false
    err := .ok
    len := 0#32
    result := 0#32
    inFifo := []
    outFifo := []
    inputs := []
    seen := []
    turns := []
    clock := 0 }

/-- The machine in the reference configuration (00_scope.md R5, R10, R11; log entry 7) right after hardware reset. -/
def State.reset : State := State.resetOf Config.reference

end Sys2Proof.Machine
end

