-- ==== Sys2Proof/Machine/Operands.lean ====
section
/-! DEFINITION. The operand forms: the interface codes by which digits cross the boundary (40_codec.md R110, R111), the codec
functions on plane words (R112, R113), and the range checks of a command's fields as R203 lists them. -/

namespace Sys2Proof.Machine

/-- `norm(v)`: only 0x01 and 0xFF are nonzero digits (40_codec.md R110). -/
def normOf (v : Byte) : Digit :=
  if v = 0x01#8 then .pos else if v = 0xFF#8 then .neg else .zero

/-- `code(d)` (40_codec.md R111). -/
def codeOf : Digit → Byte
  | .pos => 0x01#8
  | .zero => 0x00#8
  | .neg => 0xFF#8

/-- `sext_32` of an interface code (00_scope.md R14). -/
def sext32 (v : Byte) : Word := v.signExtend 32

/-- `lanemask(j)` (00_scope.md R13). -/
def laneMask (j : Nat) : Plane := 1#64 <<< j

/-- The W low bits: what a W-bit word can hold (00_scope.md R13; log entry 11). -/
def planeMask (g : Config) : Plane :=
  match g.width with
  | .w32 => 0x00000000FFFFFFFF#64
  | .w64 => 0xFFFFFFFFFFFFFFFF#64

/-- `enc(p, n, j, d)`: lane j takes the digit d whatever it held, every other bit stays (40_codec.md R112; 90_conflicts.md C2). -/
def enc (x : Cell) (j : Nat) (d : Digit) : Cell :=
  match d with
  | .pos => { p := x.p ||| laneMask j, n := x.n &&& ~~~laneMask j }
  | .neg => { p := x.p &&& ~~~laneMask j, n := x.n ||| laneMask j }
  | .zero => { p := x.p &&& ~~~laneMask j, n := x.n &&& ~~~laneMask j }

/-- `dec(p, n, j)`: the positive plane is looked at first, so (1, 1) reads +1 (40_codec.md R113; 93_implementation_defined.md I1). -/
def dec (x : Cell) (j : Nat) : Digit :=
  if x.p.getLsbD j then .pos else if x.n.getLsbD j then .neg else .zero

/-- One check made at issue: whether it passes, and the code it reports if it does not (60_exceptions.md R203). -/
abbrev Check := Bool × ErrCode

/-- The code of the first check that fails; `none` when every check passes (60_exceptions.md R203, R211). -/
def firstFailure : List Check → Option ErrCode
  | [] => none
  | (true, _) :: rest => firstFailure rest
  | (false, e) :: _ => some e

/-- INVALID_CONTEXT unless the context exists (60_exceptions.md R200). -/
def checkContext (g : Config) (c : CtxIdx) : Check := (decide (c.toNat < g.ctxCount), .invalidContext)

/-- INVALID_BATCH_SIZE unless 1 ≤ B ≤ W (60_exceptions.md R200). -/
def checkBatch (g : Config) (b : BitVec 7) : Check := (decide (1 ≤ b.toNat ∧ b.toNat ≤ g.lanes), .invalidBatchSize)

/-- A length code unless L is a multiple of 243 (60_exceptions.md R200; 90_conflicts.md C3). -/
def checkLength (len : Word) (e : ErrCode) : Check := (decide (len.toNat % blockSize = 0), e)

/-- INVALID_CELL unless the cell exists (60_exceptions.md R200). -/
def checkCell (i : BitVec 10) : Check := (decide (i.toNat < stateSize), .invalidCell)

/-- INVALID_LANE unless the lane exists (60_exceptions.md R200). -/
def checkLane (g : Config) (j : BitVec 6) : Check := (decide (j.toNat < g.lanes), .invalidLane)

/-- ABSORB_AFTER_SQUEEZE unless the context is Absorbing (60_exceptions.md R205). -/
def checkDirection (d : Direction) : Check := (decide (d = .absorbing), .absorbAfterSqueeze)

/-- The number of blocks of a length, `L div 243` (00_scope.md R19). -/
def blockCount (len : Word) : Nat := len.toNat / blockSize

end Sys2Proof.Machine
end

