-- ==== Sys2Proof/Machine/Engine.lean ====
section
/-! DEFINITION. The permutation engine: S-box, round and the double-buffered transform (42_permutation.md R140 to R148,
10_state.md R26). -/

namespace Sys2Proof.Machine

/-- The S-box, on W-bit words: `outP = tmp AND NOT xP`, the corrected formula of 42_permutation.md R140 (90_conflicts.md C1; log
entry 14). The mask keeps the complements within W bits (00_scope.md R13). -/
def sbox (g : Config) (x y : Cell) : Cell :=
  { p := (x.n ^^^ y.p) &&& ~~~x.p &&& planeMask g
    n := ~~~(x.n ^^^ y.p) &&& ~~~(x.p ^^^ y.n) &&& planeMask g }

/-- One round, `out[i] = Sbox(in[T[i]], in[T[i+1]])` for every i, all reads from the input (42_permutation.md R144, R145). -/
def roundOf (g : Config) (x : Cells) : Cells :=
  tabulate fun i : Fin stateSize =>
    sbox g
      x[(g.permTable[i.val]'(Nat.lt_succ_of_lt i.isLt)).val]
      x[(g.permTable[i.val + 1]'(Nat.succ_lt_succ i.isLt)).val]

/-- The engine while it runs: the context's arrays beside its own state (10_state.md R26). -/
structure Buffers where
  home : Cells
  engine : Engine
  deriving DecidableEq, Repr

/-- The array that holds the current input (10_state.md R26). -/
def Buffers.current (b : Buffers) : Cells :=
  match b.engine.role with
  | .contextIn => b.home
  | .scratchIn => b.engine.scratch

/-- One round of the double-buffered engine: read the input buffer, write the other one, swap the roles, count the round
(10_state.md R26, 42_permutation.md R145). -/
def Buffers.roundStep (g : Config) (b : Buffers) : Buffers :=
  match b.engine.role with
  | .contextIn => { b with engine := { scratch := roundOf g b.home, role := .scratchIn, round := b.engine.round + 1 } }
  | .scratchIn =>
    { home := roundOf g b.engine.scratch, engine := { b.engine with role := .contextIn, round := b.engine.round + 1 } }

/-- `n` rounds, one after another. Irreducible, so that no elaborator unfolds the 81 rounds by itself. -/
@[irreducible] def Buffers.run (g : Config) : Nat → Buffers → Buffers
  | 0, b => b
  | n + 1, b => Buffers.run g n (b.roundStep g)

/-- The transform of a context's cells: ROUNDS rounds from the context's arrays, the result copied back into them whatever the
parity of ROUNDS (42_permutation.md R146). Answers the context's cells and what is left in the engine. -/
def engineTransform (g : Config) (x : Cells) (e : Engine) : Cells × Engine :=
  let b := Buffers.run g roundCount { home := x, engine := { e with role := .contextIn, round := 0 } }
  (b.current, b.engine)

end Sys2Proof.Machine
end

