-- ==== Sys2Proof/Machine/Flags.lean ====
section
/-! DEFINITION. STATUS (10_state.md R32): its fields, the word a read returns, the write-1-to-clear bits, and the codes of ERR
(60_exceptions.md R200). -/

namespace Sys2Proof.Machine

/-- The number of a result code (60_exceptions.md R200). -/
def ErrCode.number : ErrCode → BitVec 4
  | .ok => 0#4
  | .invalidBatchSize => 1#4
  | .invalidAbsorbLength => 2#4
  | .invalidSqueezeLength => 3#4
  | .illegalCommand => 4#4
  | .invalidContext => 5#4
  | .invalidCell => 6#4
  | .invalidLane => 7#4
  | .absorbAfterSqueeze => 8#4

/-- The one condition of kind `fatal` (60_exceptions.md R200, R205). -/
def ErrCode.isFatal : ErrCode → Bool
  | .absorbAfterSqueeze => true
  | .ok => false
  | .invalidBatchSize => false
  | .invalidAbsorbLength => false
  | .invalidSqueezeLength => false
  | .illegalCommand => false
  | .invalidContext => false
  | .invalidCell => false
  | .invalidLane => false

/-- STATUS.BUSY: phase = Busy (10_state.md R27, R32). -/
def State.busy (s : State) : Bool := s.run.isSome

/-- The word a read of STATUS returns, reserved bits 0 (10_state.md R32). -/
def statusWord (s : State) : Word :=
  place s.err.number 8 ||| place (BitVec.ofBool s.outUnderflow) 4 ||| place (BitVec.ofBool s.inOverflow) 3
    ||| place (BitVec.ofBool s.overrun) 2 ||| place (BitVec.ofBool s.fatal) 1 ||| place (BitVec.ofBool s.busy) 0

/-- A write of v to STATUS clears each of bits 2, 3 and 4 whose bit in v is 1, and changes nothing else (10_state.md R32). -/
def State.clearSticky (s : State) (v : Word) : State :=
  { s with
    overrun := s.overrun && !v.getLsbD 2
    inOverflow := s.inOverflow && !v.getLsbD 3
    outUnderflow := s.outUnderflow && !v.getLsbD 4 }

end Sys2Proof.Machine
end

