-- ==== Sys2Proof/Machine/Ops.lean ====
section
/-! DEFINITION. The named operations: contexts and cells, the two FIFOs, ending a command, issuing one, the transform, hardware
reset, and who moves next. -/

namespace Sys2Proof.Machine

/-- Context c (00_scope.md R15). -/
def State.ctx (s : State) (c : CtxIdx) : Context := s.ctxs[c.toNat]'c.isLt

/-- Write context c; no other context changes (10_state.md R23). -/
def State.setCtx (s : State) (c : CtxIdx) (x : Context) : State :=
  { s with ctxs := s.ctxs.set c.toNat x c.isLt }

/-- `cell(c, i)` of a context (00_scope.md R15). The issue checks keep i below 729 (60_exceptions.md R203). -/
def Context.cell (x : Context) (i : Nat) : Cell := x.cells[i]?.getD Cell.zero

/-- Write cell i of a context. -/
def Context.setCell (x : Context) (i : Nat) (v : Cell) : Context := { x with cells := x.cells.setIfInBounds i v }

/-- Write digit d into lane j of cell i (40_codec.md R112). -/
def Context.putDigit (x : Context) (i j : Nat) (d : Digit) : Context := x.setCell i (enc (x.cell i) j d)

/-- The digit in lane j of cell i (40_codec.md R113). -/
def Context.digit (x : Context) (i j : Nat) : Digit := dec (x.cell i) j

/-- Write DIR (00_scope.md R15). -/
def Context.setDir (x : Context) (d : Direction) : Context := { x with dir := d }

/-- `raise Error(code)` and `raise Fatal(code)`: the command ends with ERR = code; a fatal code also sets FATAL. Nothing else
changes (00_scope.md R17, 60_exceptions.md R202, R205). -/
def State.raise (s : State) (e : ErrCode) : State := { s with err := e, fatal := s.fatal || e.isFatal }

/-- `complete()`: ERR = 0 and BUSY = 0 (00_scope.md R17). -/
def State.complete (s : State) : State := { s with run := none, err := .ok }

/-- Move the running command to its next micro-step (10_state.md R41). -/
def State.advance (s : State) (p : Pos) : State := { s with run := s.run.map fun r => { r with pos := p } }

/-- Issue, in one indivisible step: the checks in their order; if one fails the command ends with its code and BUSY stays 0, else
the command and the current LEN are latched and BUSY becomes 1 (10_state.md R40). -/
def issue (i : Instr) (checks : List Check) (start : Pos) (s : State) : State :=
  match firstFailure checks with
  | some e => s.raise e
  | none => { s with run := some { cmd := i, len := s.len, pos := start } }

/-- One step of command `i`: while halted nothing (60_exceptions.md R206), at Idle its issue (10_state.md R40), at Busy the micro-step
at the running command's position (10_state.md R41; log entry 2). -/
def runCommand (i : Instr) (checks : List Check) (start : Pos) (micro : Running → State) (s : State) :
    Host.Outcome State Fault Refusal :=
  if s.fatal then .next s
  else
    match s.run with
    | none => .next (issue i checks start s)
    | some r => .next (micro r)

/-- `transform(c)`: the cells of context c and the engine's hidden state change; DIR does not (42_permutation.md R146). -/
def State.transform (s : State) (c : CtxIdx) : State :=
  let x := s.ctx c
  let r := engineTransform s.cfg x.cells s.engine
  { s.setCtx c { x with cells := r.1 } with engine := r.2 }

/-- A DIN write: append v[7:0], or set IN_OVERFLOW if the FIFO is full; nothing while halted (20_memory.md R72). -/
def State.pushIn (s : State) (v : Byte) : State :=
  if s.fatal then s
  else if s.inFifo.length < s.cfg.ififoDepth then { s with inFifo := s.inFifo ++ [v] }
  else { s with inOverflow := true }

/-- A DOUT read: the word returned and the state after (20_memory.md R73). -/
def State.popOut (s : State) : Word × State :=
  if s.fatal then (0#32, s)
  else
    match s.outFifo with
    | v :: rest => (sext32 v, { s with outFifo := rest })
    | [] => (0#32, { s with outUnderflow := true })

/-- Whether `push_out` is enabled (20_memory.md R73). -/
def State.outHasRoom (s : State) : Bool := decide (s.outFifo.length < s.cfg.ofifoDepth)

/-- `push_out(v)` where it is enabled (20_memory.md R73). -/
def State.pushOut (s : State) (v : Byte) : State := { s with outFifo := s.outFifo ++ [v] }

/-- Hardware reset: the block's state takes the values of 10_state.md R50; a running command is abandoned and FATAL clears
(70_reset_and_hazards.md R230). The constants stay, and so does the world around the block. -/
def State.hardReset (s : State) : State :=
  { State.resetOf s.cfg with inputs := s.inputs, seen := s.seen, turns := s.turns, clock := s.clock }

/-- Whether the core has an enabled micro-step: a command runs, the block is not halted, and a merge has an entry to pop, an emit
room to push (10_state.md R41, 60_exceptions.md R206, 70_reset_and_hazards.md R242). -/
def State.coreEnabled (s : State) : Bool :=
  !s.fatal &&
    match s.run with
    | none => false
    | some r =>
      match r.pos with
      | .merge _ _ _ => !s.inFifo.isEmpty
      | .emit _ _ _ => s.outHasRoom
      | .whole => true
      | .transform _ => true
      | .blockStart _ => true
      | .direction _ => true
      | .finish => true

/-- Whether something waits at the block's boundary. -/
def State.hostEnabled (s : State) : Bool := !s.inputs.isEmpty

/-- Whether both agents could move, so that the order is open (20_memory.md R76). -/
def State.choiceOpen (s : State) : Bool := s.coreEnabled && s.hostEnabled

/-- Who moves where both could: the schedule's next entry, or past its end the free value (log entry 5). -/
def State.nextTurn (s : State) : Agent :=
  match s.turns with
  | a :: _ => a
  | [] => Config.freeTurn s.clock

/-- Who moves next; `none` when neither agent has an enabled step (20_memory.md R76, 70_reset_and_hazards.md R242). -/
def State.mover (s : State) : Option Agent :=
  if s.coreEnabled then
    if s.hostEnabled then some s.nextTurn else some .core
  else if s.hostEnabled then some .host
  else none

/-- The state once the choice of this step has been taken: an open choice uses up one entry of the schedule. -/
def State.afterChoice (s : State) : State :=
  if s.choiceOpen then { s with turns := s.turns.tail, clock := s.clock + 1 } else s

end Sys2Proof.Machine
end

