-- ==== Sys2Proof/Machine/Codec.lean ====
section
/-! DEFINITION. The codec commands ENCODE and DECODE (40_codec.md). Each is one micro-step, and neither reads or writes DIR. -/

namespace Sys2Proof.Machine

/-- ENCODE c, i, j, v: lane j of cell i of context c becomes the digit norm(v) (40_codec.md R115). -/
def execEncode (c : CtxIdx) (i : BitVec 10) (j : BitVec 6) (v : Byte) (s : State) : Host.Outcome State Fault Refusal :=
  runCommand (.encode c i j v) [checkContext s.cfg c, checkCell i, checkLane s.cfg j] .whole
    (fun _ => (s.setCtx c ((s.ctx c).putDigit i.toNat j.toNat (normOf v))).complete) s

/-- DECODE c, i, j: RESULT becomes the sign-extended code of the digit in lane j of cell i of context c (40_codec.md R118). -/
def execDecode (c : CtxIdx) (i : BitVec 10) (j : BitVec 6) (s : State) : Host.Outcome State Fault Refusal :=
  runCommand (.decode c i j) [checkContext s.cfg c, checkCell i, checkLane s.cfg j] .whole
    (fun _ => { s with result := sext32 (codeOf ((s.ctx c).digit i.toNat j.toNat)) }.complete) s

end Sys2Proof.Machine
end

