-- ==== Sys2Proof/Machine/Permutation.lean ====
section
/-! DEFINITION. PERMUTE (42_permutation.md R150). -/

namespace Sys2Proof.Machine

/-- PERMUTE's micro-steps: the transform, then `complete()` (42_permutation.md R150). -/
def permuteStep (c : CtxIdx) (s : State) (r : Running) : State :=
  match r.pos with
  | .transform _ => (s.transform c).advance .finish
  | .finish => s.complete
  | .whole => s
  | .merge _ _ _ => s
  | .blockStart _ => s
  | .direction _ => s
  | .emit _ _ _ => s

/-- PERMUTE c: one transform of context c; DIR[c] stays (42_permutation.md R150). -/
def execPermute (c : CtxIdx) (s : State) : Host.Outcome State Fault Refusal :=
  runCommand (.permute c) [checkContext s.cfg c] (.transform 0) (permuteStep c s) s

end Sys2Proof.Machine
end

