-- ==== Sys2Proof/Machine/Protocol.lean ====
section
/-! DEFINITION. The protocol commands ABSORB and SQUEEZE (43_protocol.md): their micro-steps in the order of R172 and R178, the
digits in the stream order of R173. -/

namespace Sys2Proof.Machine

/-- Where ABSORB goes to begin block b: its first merge, or `complete()` when every block is done (43_protocol.md R172, R176). -/
def absorbBlock (len : Word) (b : Nat) : Pos := if b < blockCount len then .merge b 0 0 else .finish

/-- Where ABSORB goes after merging digit k of lane j of block b: position by position, then lane by lane, then the block's
transform (43_protocol.md R172, R173). -/
def absorbNext (batch b j k : Nat) : Pos :=
  if k + 1 < blockSize then .merge b j (k + 1)
  else if j + 1 < batch then .merge b (j + 1) 0
  else .transform b

/-- ABSORB's micro-steps (43_protocol.md R172). A merge with the input FIFO empty is not enabled: the command stalls and nothing
changes (70_reset_and_hazards.md R242). -/
def absorbStep (c : CtxIdx) (batch : BitVec 7) (s : State) (r : Running) : State :=
  match r.pos with
  | .merge b j k =>
    match s.inFifo with
    | [] => s
    | v :: rest =>
      { s.setCtx c ((s.ctx c).putDigit k j (normOf v)) with inFifo := rest }.advance (absorbNext batch.toNat b j k)
  | .transform b => (s.transform c).advance (absorbBlock r.len (b + 1))
  | .finish => s.complete
  | .whole => s
  | .blockStart _ => s
  | .direction _ => s
  | .emit _ _ _ => s

/-- ABSORB c, B: per block, merge B·243 input entries into lanes 0..B-1 of cells 0..242, then transform (43_protocol.md R172). The
direction is checked last, and a Squeezing context halts the block (60_exceptions.md R203, R205). -/
def execAbsorb (c : CtxIdx) (batch : BitVec 7) (s : State) : Host.Outcome State Fault Refusal :=
  runCommand (.absorb c batch)
    [checkContext s.cfg c, checkBatch s.cfg batch, checkLength s.len .invalidAbsorbLength, checkDirection (s.ctx c).dir]
    (absorbBlock s.len 0) (absorbStep c batch s) s

/-- Where SQUEEZE goes to begin block b, or `complete()` when every block is done (43_protocol.md R178, R180). -/
def squeezeBlock (len : Word) (b : Nat) : Pos := if b < blockCount len then .blockStart b else .finish

/-- Where SQUEEZE goes after emitting digit k of lane j of block b (43_protocol.md R173, R178). -/
def squeezeNext (len : Word) (batch b j k : Nat) : Pos :=
  if k + 1 < blockSize then .emit b j (k + 1)
  else if j + 1 < batch then .emit b (j + 1) 0
  else squeezeBlock len (b + 1)

/-- The direction write of SQUEEZE, a micro-step of its own (43_protocol.md R178). -/
def directionWrite (c : CtxIdx) (b : Nat) (s : State) : State :=
  (s.setCtx c ((s.ctx c).setDir .squeezing)).advance (.emit b 0 0)

/-- SQUEEZE's micro-steps (43_protocol.md R178): a block starts with the transform if the context is Squeezing, else with the
direction write. An emit with the output FIFO full is not enabled: nothing changes (70_reset_and_hazards.md R242). -/
def squeezeStep (c : CtxIdx) (batch : BitVec 7) (s : State) (r : Running) : State :=
  match r.pos with
  | .blockStart b =>
    match (s.ctx c).dir with
    | .squeezing => (s.transform c).advance (.direction b)
    | .absorbing => directionWrite c b s
  | .direction b => directionWrite c b s
  | .emit b j k =>
    if s.outHasRoom then
      (s.pushOut (codeOf ((s.ctx c).digit k j))).advance (squeezeNext r.len batch.toNat b j k)
    else s
  | .finish => s.complete
  | .whole => s
  | .merge _ _ _ => s
  | .transform _ => s

/-- SQUEEZE c, B: emit L digits for each of B lanes, with a transform before every block but the first after absorbing
(43_protocol.md R178, R179). It has no direction check. -/
def execSqueeze (c : CtxIdx) (batch : BitVec 7) (s : State) : Host.Outcome State Fault Refusal :=
  runCommand (.squeeze c batch)
    [checkContext s.cfg c, checkBatch s.cfg batch, checkLength s.len .invalidSqueezeLength]
    (squeezeBlock s.len 0) (squeezeStep c batch s) s

end Sys2Proof.Machine
end

