-- ==== Sys2Proof/Machine/SpongeState.lean ====
section
/-! DEFINITION. The state commands RESET and CLONE (41_state_ops.md). Each is one micro-step. -/

namespace Sys2Proof.Machine

/-- RESET c: every cell of c becomes (0, 0) and DIR[c] Absorbing (41_state_ops.md R130). -/
def execReset (c : CtxIdx) (s : State) : Host.Outcome State Fault Refusal :=
  runCommand (.reset c) [checkContext s.cfg c] .whole (fun _ => (s.setCtx c Context.zero).complete) s

/-- CLONE d, s: context d becomes a copy of context s, cells and direction (41_state_ops.md R133). CTX is checked before SRC
(60_exceptions.md R203). -/
def execClone (dst src : CtxIdx) (s : State) : Host.Outcome State Fault Refusal :=
  runCommand (.clone dst src) [checkContext s.cfg dst, checkContext s.cfg src] .whole
    (fun _ => (s.setCtx dst (s.ctx src)).complete) s

end Sys2Proof.Machine
end

