-- ==== Sys2Proof/Machine/Dispatch.lean ====
section
/-! DEFINITION. One step of a command: one arm per constructor of Instr, each one direct call of its meaning. -/

namespace Sys2Proof.Machine

def exec (i : Instr) (s : State) : Host.Outcome State Fault Refusal :=
  match i with
  | .reset c => Sys2Proof.Machine.execReset c s
  | .clone d e => Sys2Proof.Machine.execClone d e s
  | .absorb c b => Sys2Proof.Machine.execAbsorb c b s
  | .squeeze c b => Sys2Proof.Machine.execSqueeze c b s
  | .permute c => Sys2Proof.Machine.execPermute c s
  | .encode c x j v => Sys2Proof.Machine.execEncode c x j v s
  | .decode c x j => Sys2Proof.Machine.execDecode c x j s

end Sys2Proof.Machine
end

