-- ==== Sys2Proof/Machine/HostPort.lean ====
section
/-! DEFINITION. The register window (10_state.md R30 to R42, 20_memory.md R61 to R65): what a host access does, command writes and
the reset input among them. -/

namespace Sys2Proof.Machine

/-- The registers of the window (10_state.md R30). -/
inductive Csr where
  | cmd
  | len
  | status
  | result
  | din
  | dout
  | fifoStatus
  | config
  | dirs
  | fifoCfg
  | reserved
  deriving DecidableEq, Repr

/-- The register at an aligned offset of the window (10_state.md R30). -/
def Csr.ofOffset (off : Nat) : Csr :=
  match off with
  | 0x00 => .cmd
  | 0x04 => .len
  | 0x08 => .status
  | 0x0C => .result
  | 0x10 => .din
  | 0x14 => .dout
  | 0x18 => .fifoStatus
  | 0x1C => .config
  | 0x20 => .dirs
  | 0x24 => .fifoCfg
  | _ => .reserved

/-- Bit c of DIRS: 1 where context c exists and is Squeezing (10_state.md R39). -/
def dirBit (s : State) (c : Nat) : Bool :=
  decide (c < s.cfg.ctxCount) && decide ((s.ctx (BitVec.ofNat 4 c)).dir = .squeezing)

/-- Bits n-1 to 0 of DIRS. -/
def dirBits (s : State) : (n : Nat) → BitVec n
  | 0 => 0#0
  | n + 1 => (dirBits s n).cons (dirBit s n)

/-- DIRS (10_state.md R39). -/
def dirsWord (s : State) : Word := place (dirBits s 16) 0

/-- FIFO_STATUS: OUT_COUNT over IN_COUNT (10_state.md R37). -/
def fifoStatusWord (s : State) : Word :=
  place (BitVec.ofNat 16 s.outFifo.length) 16 ||| place (BitVec.ofNat 16 s.inFifo.length) 0

/-- CONFIG: CTX_COUNT, ROUNDS and W, the top byte 0 (10_state.md R38). -/
def configWord (g : Config) : Word :=
  place (BitVec.ofNat 8 g.ctxCount) 16 ||| place (BitVec.ofNat 8 roundCount) 8 ||| place (BitVec.ofNat 8 g.lanes) 0

/-- FIFO_CFG: OFIFO_DEPTH over IFIFO_DEPTH (10_state.md R42). -/
def fifoCfgWord (g : Config) : Word :=
  place (BitVec.ofNat 16 g.ofifoDepth) 16 ||| place (BitVec.ofNat 16 g.ififoDepth) 0

/-- What a read of a register returns and the state after it; only DOUT has a side effect (20_memory.md R65). -/
def readCsr (s : State) : Csr → Word × State
  | .cmd => (0#32, s)
  | .len => (s.len, s)
  | .status => (statusWord s, s)
  | .result => (s.result, s)
  | .din => (0#32, s)
  | .dout => s.popOut
  | .fifoStatus => (fifoStatusWord s, s)
  | .config => (configWord s.cfg, s)
  | .dirs => (dirsWord s, s)
  | .fifoCfg => (fifoCfgWord s.cfg, s)
  | .reserved => (0#32, s)

/-- A CMD write while not halted: dropped with OVERRUN when Busy (10_state.md R31), else the issue of the command the word decodes
to, or ILLEGAL_COMMAND (30_encoding.md R96 to R98). -/
def commandWrite (s : State) (w : Word) : Host.Outcome State Fault Refusal :=
  match s.run with
  | some _ => .next { s with overrun := true }
  | none =>
    match decode w with
    | .ok i => exec i s
    | .error _ => .next (s.raise .illegalCommand)

/-- What a write to a register does. While halted, nothing (60_exceptions.md R206); to a read-only register or a reserved offset,
nothing (10_state.md R30). -/
def writeCsr (s : State) (v : Word) (r : Csr) : Host.Outcome State Fault Refusal :=
  if s.fatal then .next s
  else
    match r with
    | .cmd => commandWrite s v
    | .len => .next { s with len := v }
    | .status => .next (s.clearSticky v)
    | .din => .next (s.pushIn (v.extractLsb' 0 8))
    | .result => .next s
    | .dout => .next s
    | .fifoStatus => .next s
    | .config => .next s
    | .dirs => .next s
    | .fifoCfg => .next s
    | .reserved => .next s

/-- Why an access is outside the interface, if it is: not 32 bits, not aligned (20_memory.md R61, R62), past the window (10_state.md
R30); checked in this order (log entry 26). -/
def accessStop (off size : Nat) : Option (Host.Outcome State Fault Refusal) :=
  if size ≠ 4 then some (.refused (.accessWidth size))
  else if off % 4 ≠ 0 then some (.refused (.misaligned off))
  else if 64 ≤ off then some (.fault (.outsideWindow off))
  else none

/-- A host read; the word returned is the newest entry of `seen` (00_scope.md R18). -/
def hostRead (s : State) (off size : Nat) : Host.Outcome State Fault Refusal :=
  match accessStop off size with
  | some o => o
  | none =>
    let r := readCsr s (Csr.ofOffset off)
    .next { r.2 with seen := r.1 :: s.seen }

/-- A host write (00_scope.md R18). -/
def hostWrite (s : State) (off size : Nat) (v : Word) : Host.Outcome State Fault Refusal :=
  match accessStop off size with
  | some o => o
  | none => writeCsr s v (Csr.ofOffset off)

/-- One input at the block's boundary. -/
def hostInput (s : State) : HostInput → Host.Outcome State Fault Refusal
  | .read off size => hostRead s off size
  | .write off size v => hostWrite s off size v
  | .hardReset => .next s.hardReset

/-- The host's step: its oldest pending input (20_memory.md R75). -/
def hostStep (s : State) : Host.Outcome State Fault Refusal :=
  match s.inputs with
  | [] => .next s
  | x :: rest => hostInput { s with inputs := rest } x

/-- The core's step: one micro-step of the latched command (10_state.md R41). -/
def coreStep (s : State) : Host.Outcome State Fault Refusal :=
  match s.run with
  | none => .next s
  | some r => exec r.cmd s

/-- The offset at which an address of the platform's bus lies in the window, if it does (20_memory.md R81, log entry 8). -/
def windowOffset (addr : Nat) : Option Nat :=
  if Config.csrBase ≤ addr ∧ addr < Config.csrBase + 64 then some (addr - Config.csrBase) else none

end Sys2Proof.Machine
end

