-- ==== Sys2Proof/Machine/Step.lean ====
section
/-! DEFINITION. One step of the whole machine: one agent's indivisible step (20_memory.md R64, R76). -/

namespace Sys2Proof.Machine

/-- One step: the agent whose turn it is makes one step; where neither has an enabled step, nothing changes, which is how an idle, a
stalled or a halted block waits (70_reset_and_hazards.md R242; log entry 6). -/
def step (s : State) : Host.Outcome State Fault Refusal :=
  match s.mover with
  | some .core => coreStep s.afterChoice
  | some .host => hostStep s.afterChoice
  | none => .next s

/-- `s` with the command word as the host's next access, a write to CMD, and the block ready to take it: no command running and not
halted, since only then does a CMD write issue (10_state.md R31; log entries 16, 17). -/
def State.withFetchWord (s : State) (nbits w : Nat) : State :=
  { s with run := none, fatal := false, inputs := .write 0x00 4 (tableWord nbits w) :: s.inputs }

end Sys2Proof.Machine
end

