-- ==== Sys2Proof/Machine/Reference.lean ====
section
/-! DEFINITION. What a whole command does, written as plain functions of a context and a stream (43_protocol.md R172, R173, R178), and
the one-lane hash of R185. No step uses them: statements compare the step's runs with them. -/

namespace Sys2Proof.Machine

/-- `n` rounds, without the engine's two buffers (42_permutation.md R146). Irreducible for the reason `Buffers.run` is. -/
@[irreducible] def rounds (g : Config) : Nat → Cells → Cells
  | 0, x => x
  | n + 1, x => rounds g n (roundOf g x)

/-- The transform of a context's cells, its direction kept (42_permutation.md R146). -/
def Context.transformed (g : Config) (x : Context) : Context := { x with cells := rounds g roundCount x.cells }

/-- Merge one block of a batch from the front of a stream: entry `j·243 + k` is digit k of lane j (43_protocol.md R172, R173). -/
def mergeBlock (batch : Nat) (vs : List Byte) (x : Context) : Context :=
  (List.range batch).foldl
    (fun y j => (List.range blockSize).foldl (fun z k => z.putDigit k j (normOf (vs.getD (j * blockSize + k) 0#8))) y) x

/-- Absorb `n` blocks of a batch from a stream, a transform after each (43_protocol.md R172). -/
def absorbBlocks (g : Config) (batch : Nat) : Nat → List Byte → Context → Context
  | 0, _, x => x
  | n + 1, vs, x =>
    absorbBlocks g batch n (vs.drop (batch * blockSize)) ((mergeBlock batch vs x).transformed g)

/-- One block of output: lane by lane, within a lane in position order (43_protocol.md R173, R178). -/
def emitBlock (batch : Nat) (x : Context) : List Byte :=
  (List.range batch).flatMap fun j => (List.range blockSize).map fun k => codeOf (x.digit k j)

/-- The context a block of SQUEEZE is emitted from: transformed first if it is Squeezing, then marked Squeezing (43_protocol.md
R178, R179). -/
def squeezeReady (g : Config) (x : Context) : Context :=
  (if x.dir = .squeezing then x.transformed g else x).setDir .squeezing

/-- Squeeze `n` blocks of a batch: the context after, and the stream (43_protocol.md R178). -/
def squeezeBlocks (g : Config) (batch : Nat) : Nat → Context → Context × List Byte
  | 0, x => (x, [])
  | n + 1, x =>
    let y := squeezeReady g x
    let r := squeezeBlocks g batch n y
    (r.1, emitBlock batch y ++ r.2)

/-- The S-box on digits (42_permutation.md R142, the table of nine pairs). -/
def sboxDigit : Digit → Digit → Digit
  | .neg, .neg => .pos
  | .neg, .zero => .pos
  | .neg, .pos => .neg
  | .zero, .neg => .zero
  | .zero, .zero => .neg
  | .zero, .pos => .pos
  | .pos, .neg => .neg
  | .pos, .zero => .zero
  | .pos, .pos => .zero

/-- One sponge state of a single lane (43_protocol.md R185). -/
abbrev LaneCells := Vector Digit stateSize

/-- One round on one lane (42_permutation.md R142, R145). -/
def laneRound (g : Config) (x : LaneCells) : LaneCells :=
  tabulate fun i : Fin stateSize =>
    sboxDigit
      x[(g.permTable[i.val]'(Nat.lt_succ_of_lt i.isLt)).val]
      x[(g.permTable[i.val + 1]'(Nat.succ_lt_succ i.isLt)).val]

/-- `n` rounds on one lane. -/
@[irreducible] def laneRounds (g : Config) : Nat → LaneCells → LaneCells
  | 0, x => x
  | n + 1, x => laneRounds g n (laneRound g x)

/-- `s[0..242] <- m_b` (43_protocol.md R185). -/
def laneOverwrite (m : List Digit) (x : LaneCells) : LaneCells :=
  tabulate fun i : Fin stateSize => if i.val < blockSize then m.getD i.val .zero else x[i.val]

/-- Absorb `n` blocks of a lane's digits (43_protocol.md R185). -/
def laneAbsorb (g : Config) : Nat → List Digit → LaneCells → LaneCells
  | 0, _, x => x
  | n + 1, m, x => laneAbsorb g n (m.drop blockSize) (laneRounds g roundCount (laneOverwrite m x))

/-- `s[0..242]` (43_protocol.md R185). -/
def laneRate (x : LaneCells) : List Digit := x.toList.take blockSize

/-- Emit `n` blocks, a transform between every two (43_protocol.md R185). -/
def laneSqueeze (g : Config) : Nat → LaneCells → List Digit
  | 0, _ => []
  | n + 1, x => laneRate x ++ laneSqueeze g n (laneRounds g roundCount x)

/-- `H(m, L_out)` for `nIn` blocks of input and `nOut` blocks of output (43_protocol.md R185). -/
def laneHash (g : Config) (nIn nOut : Nat) (m : List Digit) : List Digit :=
  laneSqueeze g nOut (laneAbsorb g nIn m (Vector.replicate stateSize .zero))

/-- Lane j's digits in the stream of an ABSORB of batch `batch` and `n` blocks (43_protocol.md R173). -/
def laneOfStream (batch j n : Nat) (vs : List Byte) : List Digit :=
  (List.range (n * blockSize)).map fun q => normOf (vs.getD ((q / blockSize * batch + j) * blockSize + q % blockSize) 0#8)

end Sys2Proof.Machine
end

