-- ==== Sys2Proof/WellFormed.lean ====
section
/-! DEFINITION. Well-formedness of a command on a configuration: every operand names something the block has. A word whose
operands are out of range still decodes to its command (R98); these are the range checks of 60_exceptions.md R203 that
depend on the operands and the parameters alone. -/

namespace Sys2Proof

/-- A context number below CTX_COUNT (R10, INVALID_CONTEXT). -/
def CtxIdx.inRange (g : Config) (c : CtxIdx) : Bool := decide (c.toNat < g.ctxCount)

/-- A batch size in [1, W] (R172 check 3, INVALID_BATCH_SIZE). -/
def batchInRange (g : Config) (b : BitVec 7) : Bool := decide (1 ≤ b.toNat ∧ b.toNat ≤ g.lanes)

/-- A cell index below 729 (R115 check 2, INVALID_CELL). -/
def cellInRange (i : BitVec 10) : Bool := decide (i.toNat < stateSize)

/-- A lane below W (R115 check 3, INVALID_LANE). -/
def laneInRange (g : Config) (j : BitVec 6) : Bool := decide (j.toNat < g.lanes)

/-- Every operand of the command is in range on this configuration. -/
def Instr.wellFormed (g : Config) : Instr → Bool
  | .reset c => CtxIdx.inRange g c
  | .clone d s => CtxIdx.inRange g d && CtxIdx.inRange g s
  | .absorb c b => CtxIdx.inRange g c && batchInRange g b
  | .squeeze c b => CtxIdx.inRange g c && batchInRange g b
  | .permute c => CtxIdx.inRange g c
  | .encode c i j _ => CtxIdx.inRange g c && cellInRange i && laneInRange g j
  | .decode c i j => CtxIdx.inRange g c && cellInRange i && laneInRange g j

end Sys2Proof
end

