-- ==== Sys2Proof/Safety.lean ====
section
/-! DEFINITION. The terms claims are stated in: the invariants of the machine, the check table of 60_exceptions.md R203 written
apart from the model's own, what a step leaves alone, and a command's run to completion. -/

namespace Sys2Proof.Machine

/-- No lane holds the pair (1, 1) (10_state.md R22). -/
def Cell.Exclusive (x : Cell) : Prop := x.p &&& x.n = 0#64

/-- The exclusivity invariant (10_state.md R22). -/
def State.Exclusive (s : State) : Prop := ∀ (c : CtxIdx) (i : Nat), ((s.ctx c).cell i).Exclusive

/-- Both planes are W-bit words (00_scope.md R13). -/
def Cell.FitsWidth (g : Config) (x : Cell) : Prop := x.p &&& ~~~planeMask g = 0#64 ∧ x.n &&& ~~~planeMask g = 0#64

/-- Every plane word of every context is a W-bit word (10_state.md R20). -/
def State.FitsWidth (s : State) : Prop := ∀ (c : CtxIdx) (i : Nat), ((s.ctx c).cell i).FitsWidth s.cfg

/-- Neither FIFO holds more than its depth (20_memory.md R70). -/
def State.FifosBounded (s : State) : Prop :=
  s.inFifo.length ≤ s.cfg.ififoDepth ∧ s.outFifo.length ≤ s.cfg.ofifoDepth

/-- Every entry of the output FIFO, and RESULT, is the code of a digit (40_codec.md R111, 10_state.md R34). -/
def State.CodesOnly (s : State) : Prop :=
  (∀ v ∈ s.outFifo, ∃ d, v = codeOf d) ∧ ∃ d, s.result = sext32 (codeOf d)

/-- A halted block runs no command, and ERR is 8 exactly when the block is halted (60_exceptions.md R205, R206). -/
def State.HaltConsistent (s : State) : Prop :=
  (s.fatal = true → s.run = none) ∧ (s.fatal = true ↔ s.err = .absorbAfterSqueeze)

/-- Context slots past CTX_COUNT hold the zero context: equal machines are equal data (log entry 12). -/
def State.SpareSlotsZero (s : State) : Prop := ∀ c : CtxIdx, s.cfg.ctxCount ≤ c.toNat → s.ctx c = Context.zero

/-- A position is one of its command's micro-steps, its counters in range, and DIR is what the protocol makes it there
(10_state.md R27, R41; 43_protocol.md R172, R178). -/
def Running.Fits (r : Running) (s : State) : Prop :=
  r.cmd.wellFormed s.cfg = true ∧
  match r.cmd with
  | .reset _ => r.pos = .whole
  | .clone _ _ => r.pos = .whole
  | .encode _ _ _ _ => r.pos = .whole
  | .decode _ _ _ => r.pos = .whole
  | .permute _ => r.pos = .transform 0 ∨ r.pos = .finish
  | .absorb c n =>
    r.len.toNat % blockSize = 0 ∧ (s.ctx c).dir = .absorbing ∧
      match r.pos with
      | .merge b j k => b < blockCount r.len ∧ j < n.toNat ∧ k < blockSize
      | .transform b => b < blockCount r.len
      | .finish => True
      | .whole => False
      | .blockStart _ => False
      | .direction _ => False
      | .emit _ _ _ => False
  | .squeeze c n =>
    r.len.toNat % blockSize = 0 ∧
      match r.pos with
      | .blockStart b => b < blockCount r.len ∧ (0 < b → (s.ctx c).dir = .squeezing)
      | .direction b => b < blockCount r.len ∧ (s.ctx c).dir = .squeezing
      | .emit b j k => b < blockCount r.len ∧ j < n.toNat ∧ k < blockSize ∧ (s.ctx c).dir = .squeezing
      | .finish => True
      | .whole => False
      | .merge _ _ _ => False
      | .transform _ => False

/-- The sequencer stands at a micro-step of its command. -/
def State.SequencerFits (s : State) : Prop := ∀ r, s.run = some r → r.Fits s

/-- The invariant of the machine. -/
structure State.Inv (s : State) : Prop where
  validCfg : s.cfg.Valid
  exclusive : s.Exclusive
  fitsWidth : s.FitsWidth
  fifosBounded : s.FifosBounded
  codesOnly : s.CodesOnly
  haltConsistent : s.HaltConsistent
  spareSlotsZero : s.SpareSlotsZero
  sequencerFits : s.SequencerFits

/-- The outcome of the issue checks as the table of 60_exceptions.md R203 lists them, written out case by case. -/
def issueError (i : Instr) (s : State) : Option ErrCode :=
  match i with
  | .reset c => if s.cfg.ctxCount ≤ c.toNat then some .invalidContext else none
  | .permute c => if s.cfg.ctxCount ≤ c.toNat then some .invalidContext else none
  | .clone d e =>
    if s.cfg.ctxCount ≤ d.toNat then some .invalidContext
    else if s.cfg.ctxCount ≤ e.toNat then some .invalidContext
    else none
  | .encode c x j _ =>
    if s.cfg.ctxCount ≤ c.toNat then some .invalidContext
    else if 729 ≤ x.toNat then some .invalidCell
    else if s.cfg.lanes ≤ j.toNat then some .invalidLane
    else none
  | .decode c x j =>
    if s.cfg.ctxCount ≤ c.toNat then some .invalidContext
    else if 729 ≤ x.toNat then some .invalidCell
    else if s.cfg.lanes ≤ j.toNat then some .invalidLane
    else none
  | .absorb c b =>
    if s.cfg.ctxCount ≤ c.toNat then some .invalidContext
    else if b.toNat = 0 ∨ s.cfg.lanes < b.toNat then some .invalidBatchSize
    else if s.len.toNat % 243 ≠ 0 then some .invalidAbsorbLength
    else if (s.ctx c).dir = .squeezing then some .absorbAfterSqueeze
    else none
  | .squeeze c b =>
    if s.cfg.ctxCount ≤ c.toNat then some .invalidContext
    else if b.toNat = 0 ∨ s.cfg.lanes < b.toNat then some .invalidBatchSize
    else if s.len.toNat % 243 ≠ 0 then some .invalidSqueezeLength
    else none

/-- The micro-step a command begins with (40_codec.md R115, R118; 41_state_ops.md R130, R133; 42_permutation.md R150; 43_protocol.md
R172, R176, R178, R180). -/
def firstStep (i : Instr) (len : Word) : Pos :=
  match i with
  | .reset _ => .whole
  | .clone _ _ => .whole
  | .encode _ _ _ _ => .whole
  | .decode _ _ _ => .whole
  | .permute _ => .transform 0
  | .absorb _ _ => if len.toNat / 243 = 0 then .finish else .merge 0 0 0
  | .squeeze _ _ => if len.toNat / 243 = 0 then .finish else .blockStart 0

/-- The context a command writes (10_state.md R24): DECODE writes none. -/
def commandTarget : Instr → Option CtxIdx
  | .reset c => some c
  | .clone d _ => some d
  | .absorb c _ => some c
  | .squeeze c _ => some c
  | .permute c => some c
  | .encode c _ _ _ => some c
  | .decode _ _ _ => none

/-- The registers and the surroundings that no command writes: the constants, LEN, the sticky bits, and the model's own fields. -/
def SameOutside (s t : State) : Prop :=
  t.cfg = s.cfg ∧ t.len = s.len ∧ t.overrun = s.overrun ∧ t.inOverflow = s.inOverflow ∧ t.outUnderflow = s.outUnderflow ∧
    t.inputs = s.inputs ∧ t.seen = s.seen ∧ t.turns = s.turns ∧ t.clock = s.clock

/-- Every context but c is unchanged, cells and direction (10_state.md R23). -/
def SameOtherContexts (c : CtxIdx) (s t : State) : Prop := ∀ d : CtxIdx, d ≠ c → t.ctx d = s.ctx d

/-- Both FIFOs are unchanged. -/
def SameFifos (s t : State) : Prop := t.inFifo = s.inFifo ∧ t.outFifo = s.outFifo

/-- Bit-for-bit agreement of two cells on lane j. -/
def SameLane (j : Nat) (x y : Cell) : Prop := x.p.getLsbD j = y.p.getLsbD j ∧ x.n.getLsbD j = y.n.getLsbD j

/-- The S-box on the bits of one lane, the sixteen rows of 42_permutation.md R142: xP xN yP yN to outP outN. -/
def sboxBits (xP xN yP yN : Bool) : Bool × Bool :=
  match xP, xN, yP, yN with
  | false, false, false, false => (false, true)
  | false, false, false, true => (false, false)
  | false, false, true, false => (true, false)
  | false, false, true, true => (true, false)
  | false, true, false, false => (true, false)
  | false, true, false, true => (true, false)
  | false, true, true, false => (false, true)
  | false, true, true, true => (false, false)
  | true, false, false, false => (false, false)
  | true, false, false, true => (false, true)
  | true, false, true, false => (false, false)
  | true, false, true, true => (false, false)
  | true, true, false, false => (false, false)
  | true, true, false, true => (false, false)
  | true, true, true, false => (false, false)
  | true, true, true, true => (false, true)

/-- Cell i of an array; past its end the zero cell. -/
def Cells.cellAt (x : Cells) (i : Nat) : Cell := x[i]?.getD Cell.zero

/-- Entry k of the permutation table; past its end 0. -/
def tableEntry (g : Config) (k : Nat) : Nat := (g.permTable[k]?.map fun e => e.val).getD 0

/-- A CMD write of a word with this opcode and a 1 under the mask ends as ILLEGAL_COMMAND and changes nothing else
(30_encoding.md R96). -/
def ReservedBitsIllegal (op : BitVec 4) (mask : Word) (s : State) : Prop :=
  ∀ w : Word, fieldOp w = op → w &&& mask ≠ 0#32 → hostWrite s 0x00 4 w = .next { s with err := .illegalCommand }

/-- What the step leaves alone besides the contexts: ERR and FATAL, RESULT, and all of `SameOutside`. -/
def SameStatus (s t : State) : Prop := t.err = s.err ∧ t.fatal = s.fatal ∧ t.result = s.result ∧ SameOutside s t

/-- `n` steps of command `i`: the core's micro-steps with no host access between them. -/
def execTimes : Nat → Instr → State → Host.Outcome State Fault Refusal
  | 0, _, s => .next s
  | n + 1, i, s =>
    match exec i s with
    | .next t => execTimes n i t
    | .fault r => .fault r
    | .refused r => .refused r

/-- How many steps ABSORB of length `len` makes where it never stalls: the issue, per block its merges and its transform, and
`complete()` (43_protocol.md R172; log entry 3). -/
def absorbSteps (batch len : Nat) : Nat := 2 + len / 243 * (batch * 243 + 1)

/-- How many steps SQUEEZE of length `len` makes from direction `d` where it never stalls: the issue, per block its transform, its
direction write and its emits, and `complete()`; the first block of an Absorbing context has no transform (43_protocol.md R178, R179;
log entry 3). -/
def squeezeSteps (d : Direction) (batch len : Nat) : Nat :=
  2 + len / 243 * (batch * 243 + 2) - (if d = .absorbing ∧ 243 ≤ len then 1 else 0)

/-- `n` steps of the whole machine, host and core together. -/
def stepTimes : Nat → State → Host.Outcome State Fault Refusal
  | 0, s => .next s
  | n + 1, s =>
    match step s with
    | .next t => stepTimes n t
    | .fault r => .fault r
    | .refused r => .refused r

/-- What a successful ABSORB or SQUEEZE leaves alone while the host pushes or pops beside it: the constants, LEN, RESULT, the sticky
bits and the other contexts. -/
def SameBeside (c : CtxIdx) (s t : State) : Prop :=
  t.cfg = s.cfg ∧ t.len = s.len ∧ t.result = s.result ∧ t.overrun = s.overrun ∧ t.inOverflow = s.inOverflow ∧
    t.outUnderflow = s.outUnderflow ∧ SameOtherContexts c s t

/-- The command has ended with success and left LEN, RESULT, the sticky bits, the constants, FATAL and the other contexts as they
were. -/
def EndedOn (c : CtxIdx) (s t : State) : Prop :=
  t.run = none ∧ t.err = .ok ∧ t.fatal = s.fatal ∧ t.result = s.result ∧ SameOutside s t ∧ SameOtherContexts c s t

end Sys2Proof.Machine
end

