-- ==== Sys2Proof/Certificates/Slice0/Obligations.lean ====
section
/-! DEFINITION. The statements for the provers. Each docstring names the rule of spec/ it formalises. -/

open Sys2Proof Sys2Proof.Machine

/-! Encoding -/

/-- Decoding an encoded command gives the command back, with every operand at every value of its field (30_encoding.md R92 to R95). -/
def Obligations.DecodeOfEncode : Prop := ∀ i : Instr, decode (encode i) = .ok i

/-- A word that decodes is the word of its command: no bit is dropped and no reserved bit is ignored (30_encoding.md R96). -/
def Obligations.EncodeOfDecode : Prop := ∀ (w : Word) (i : Instr), decode w = .ok i → encode i = w

/-- Every word is exactly one row of the opcode table, and decodes to a command of that row's mnemonic, or is no row's and is rejected
(30_encoding.md R98, opcode_table.json). -/
def Obligations.DecodingIsTheOpcodeTable : Prop :=
  (∀ w : Word,
    (∃ i r, decode w = .ok i ∧ r ∈ opcodeTable ∧ r.matches w = true ∧ r.mnemonic = i.mnemonic) ∨
    (∃ e, decode w = .error e ∧ ∀ r ∈ opcodeTable, r.matches w = false)) ∧
  ∀ (w : Word) (r q : Row), r ∈ opcodeTable → q ∈ opcodeTable → r.matches w = true → q.matches w = true → r = q

/-- The worked words of 30_encoding.md R101, all twenty. -/
def Obligations.WorkedWordsDecode : Prop :=
  decode 0x00000001#32 = .ok (.reset 0) ∧
  decode 0x00000011#32 = .ok (.reset 1) ∧
  decode 0x00000012#32 = .ok (.clone 1 0) ∧
  decode 0x00000102#32 = .ok (.clone 0 1) ∧
  decode 0x00000005#32 = .ok (.permute 0) ∧
  decode 0x00000103#32 = .ok (.absorb 0 1) ∧
  decode 0x00000203#32 = .ok (.absorb 0 2) ∧
  decode 0x00004013#32 = .ok (.absorb 1 64) ∧
  decode 0x00000104#32 = .ok (.squeeze 0 1) ∧
  decode 0x00000204#32 = .ok (.squeeze 0 2) ∧
  decode 0x00000114#32 = .ok (.squeeze 1 1) ∧
  decode 0x01000006#32 = .ok (.encode 0 0 0 0x01) ∧
  decode 0xFF0C0506#32 = .ok (.encode 0 5 3 0xFF) ∧
  decode 0x00FED806#32 = .ok (.encode 0 728 63 0x00) ∧
  decode 0x00000007#32 = .ok (.decode 0 0 0) ∧
  decode 0x000C0507#32 = .ok (.decode 0 5 3) ∧
  decode 0x00FED807#32 = .ok (.decode 0 728 63) ∧
  decode 0x00000003#32 = .ok (.absorb 0 0) ∧
  decode 0x00004103#32 = .ok (.absorb 0 65) ∧
  decode 0x0102D906#32 = .ok (.encode 0 729 0 0x01)

/-- A command given as four bytes in little-endian order decodes as its word, and the bytes after it stay (20_memory.md R63). -/
def Obligations.BytesDecodeAsTheirWord : Prop :=
  ∀ (w : Word) (rest : List Byte),
    decodeBytes (bytesOfWord w ++ rest) =
      match decode w with
      | .ok i => .ok (i, rest)
      | .error e => .error e

/-! The codec -/

/-- Input normalisation: 0x01 is +1, 0xFF is -1, every other code is 0 (40_codec.md R110). -/
def Obligations.NormalisationTable : Prop :=
  normOf 0x01#8 = .pos ∧ normOf 0xFF#8 = .neg ∧ ∀ v : Byte, v ≠ 0x01#8 → v ≠ 0xFF#8 → normOf v = .zero

/-- The codec functions bit by bit: `enc` gives lane j the digit's planes and keeps every other bit; `dec` looks at the positive plane
first (40_codec.md R112, R113). -/
def Obligations.CodecFunctions : Prop :=
  ∀ (x : Cell) (j : Nat), j < 64 →
    (∀ (d : Digit) (k : Nat),
      (enc x j d).p.getLsbD k = (if k = j then decide (d = .pos) else x.p.getLsbD k) ∧
      (enc x j d).n.getLsbD k = (if k = j then decide (d = .neg) else x.n.getLsbD k)) ∧
    (x.p.getLsbD j = true → dec x j = .pos) ∧
    (x.p.getLsbD j = false → x.n.getLsbD j = true → dec x j = .neg) ∧
    (x.p.getLsbD j = false → x.n.getLsbD j = false → dec x j = .zero)

/-- The laws of the codec functions: decode after encode, other lanes unchanged, never both planes (40_codec.md R114). -/
def Obligations.CodecLaws : Prop :=
  ∀ (x : Cell) (j : Nat) (d : Digit), j < 64 →
    dec (enc x j d) j = d ∧
    (∀ k, k ≠ j → dec (enc x j d) k = dec x k) ∧
    ((enc x j d).p &&& (enc x j d).n).getLsbD j = false

/-- The branch-free forms of `enc` and `dec` (40_codec.md R120). -/
def Obligations.BranchFreeForms : Prop :=
  (∀ (x : Cell) (j : Nat) (d : Digit),
    (enc x j d).p = (x.p &&& ~~~laneMask j) ||| (if d = .pos then 1#64 else 0#64) <<< j ∧
    (enc x j d).n = (x.n &&& ~~~laneMask j) ||| (if d = .neg then 1#64 else 0#64) <<< j) ∧
  ∀ (x : Cell) (j : Nat),
    codeOf (dec x j) =
      (BitVec.ofBool (x.p.getLsbD j)).setWidth 8 - (BitVec.ofBool (x.n.getLsbD j && !x.p.getLsbD j)).setWidth 8

/-! The permutation engine -/

/-- The S-box never sets both planes of a lane, whatever its inputs (42_permutation.md R141). -/
def Obligations.SboxOutputExclusive : Prop := ∀ (g : Config) (x y : Cell), (sbox g x y).Exclusive

/-- The S-box in every lane is the sixteen-row table, and on digits the nine-pair table (42_permutation.md R142). -/
def Obligations.SboxTruthTable : Prop :=
  ∀ (g : Config) (x y : Cell) (j : Nat), j < g.lanes →
    ((sbox g x y).p.getLsbD j, (sbox g x y).n.getLsbD j) =
      sboxBits (x.p.getLsbD j) (x.n.getLsbD j) (y.p.getLsbD j) (y.n.getLsbD j) ∧
    (x.Exclusive → y.Exclusive → dec (sbox g x y) j = sboxDigit (dec x j) (dec y j))

/-- One round reads four table entries per three output cells, a sliding window over the table (42_permutation.md R144). -/
def Obligations.RoundSlidingWindow : Prop :=
  ∀ (g : Config) (x : Cells) (q : Nat), q < 243 →
    (roundOf g x).cellAt (3 * q) = sbox g (x.cellAt (tableEntry g (3 * q))) (x.cellAt (tableEntry g (3 * q + 1))) ∧
    (roundOf g x).cellAt (3 * q + 1) = sbox g (x.cellAt (tableEntry g (3 * q + 1))) (x.cellAt (tableEntry g (3 * q + 2))) ∧
    (roundOf g x).cellAt (3 * q + 2) = sbox g (x.cellAt (tableEntry g (3 * q + 2))) (x.cellAt (tableEntry g (3 * q + 3)))

/-- The double-buffered engine computes the rounds one after another, for every round count, odd or even, and whatever its scratch
arrays held (42_permutation.md R145, R146; 70_reset_and_hazards.md R248). Its second part, that the round counter then holds the number
of rounds, is the model's choice (log entry 13): the spec leaves that counter unspecified after a transform. -/
def Obligations.DoubleBufferingComputesRounds : Prop :=
  ∀ (g : Config) (n : Nat) (x : Cells) (e : Engine),
    (Buffers.run g n { home := x, engine := { e with role := .contextIn, round := 0 } }).current = rounds g n x ∧
    (Buffers.run g n { home := x, engine := { e with role := .contextIn, round := 0 } }).engine.round = n

/-- The transform leaves 81 rounds of a context's cells in that context's own cells, and writes no direction, no other context, no FIFO,
no register and nothing of the running command; of the engine's hidden scratch state it says nothing (42_permutation.md R146). -/
def Obligations.TransformIsEightyOneRounds : Prop :=
  ∀ (s : State) (c : CtxIdx),
    ((s.transform c).ctx c).cells = rounds s.cfg 81 (s.ctx c).cells ∧
    ((s.transform c).ctx c).dir = (s.ctx c).dir ∧ SameOtherContexts c s (s.transform c) ∧
    (s.transform c).run = s.run ∧ SameStatus s (s.transform c) ∧ SameFifos s (s.transform c)

/-- Lane j after a transform depends only on lane j before it: two machines with one table that agree on one lane of a context still
agree on it after the transform, whatever their other lanes and their scratch arrays hold (42_permutation.md R147). -/
def Obligations.LanesEvolveIndependently : Prop :=
  ∀ (s t : State) (c : CtxIdx) (j : Nat), s.cfg = t.cfg →
    (∀ i, SameLane j ((s.ctx c).cell i) ((t.ctx c).cell i)) →
    ∀ i, SameLane j (((s.transform c).ctx c).cell i) (((t.transform c).ctx c).cell i)

/-- The orbit of the zero state: all -1, all +1, zero again, so the transform fixes it, and an all-zero block absorbed into a zero
context squeezes to zeros (42_permutation.md R151). -/
def Obligations.ZeroStateOrbit : Prop :=
  ∀ g : Config,
    (∀ i, i < 729 → (roundOf g Cells.zero).cellAt i = { p := 0#64, n := planeMask g }) ∧
    (∀ i, i < 729 → (roundOf g (roundOf g Cells.zero)).cellAt i = { p := planeMask g, n := 0#64 }) ∧
    roundOf g (roundOf g (roundOf g Cells.zero)) = Cells.zero ∧
    rounds g 81 Cells.zero = Cells.zero ∧
    ∀ (batch m n q : Nat),
      (squeezeBlocks g batch n (absorbBlocks g batch m (List.replicate q 0x00#8) Context.zero)).2 =
        List.replicate (n * (batch * 243)) 0x00#8

/-- The default table: its recurrence, its closed form, T[729] = 0, and a permutation on 0..728 (42_permutation.md R143, R149). The
contents are the spec's own from general knowledge (log entry 15). -/
def Obligations.DefaultTableProperties : Prop :=
  let T := tableEntry Config.reference
  T 0 = 0 ∧ (∀ k, k < 729 → T (k + 1) = if T k < 365 then T k + 364 else T k - 365) ∧
  (∀ k, k ≤ 729 → T k = 364 * k % 729) ∧ T 729 = 0 ∧
  (∀ i j, i < 729 → j < 729 → T i = T j → i = j) ∧ ∀ v, v < 729 → ∃ k, k < 729 ∧ T k = v

/-! Issue -/

/-- A CMD write at Idle ends, in the one issuing step, as the check table says: the first failing check's code in ERR and nothing
else changed (FATAL too for the fatal one), or the command and LEN latched and BUSY set (60_exceptions.md R203, R202, R205;
10_state.md R40). -/
def Obligations.IssueFollowsCheckTable : Prop :=
  ∀ (s : State) (w : Word), s.fatal = false → s.run = none →
    hostWrite s 0x00 4 w =
      match decode w with
      | .error _ => .next { s with err := .illegalCommand }
      | .ok i =>
        match issueError i s with
        | none => .next { s with run := some { cmd := i, len := s.len, pos := firstStep i s.len } }
        | some .absorbAfterSqueeze => .next { s with err := .absorbAfterSqueeze, fatal := true }
        | some e => .next { s with err := e }

/-- CMD: a write at Idle is one step of the decoded command, or ends as ILLEGAL_COMMAND where the word is none; a write while Busy is
dropped and sets OVERRUN, a write while halted does nothing, a read returns 0 (10_state.md R31). -/
def Obligations.CommandRegister : Prop :=
  ∀ (s : State) (w : Word),
    (s.fatal = true → hostWrite s 0x00 4 w = .next s) ∧
    (s.fatal = false → s.run ≠ none → hostWrite s 0x00 4 w = .next { s with overrun := true }) ∧
    (∀ i, s.fatal = false → s.run = none → decode w = .ok i → hostWrite s 0x00 4 w = exec i s) ∧
    (∀ e, s.fatal = false → s.run = none → decode w = .error e →
      hostWrite s 0x00 4 w = .next { s with err := .illegalCommand }) ∧
    hostRead s 0x00 4 = .next { s with seen := 0#32 :: s.seen }

/-! The commands -/

/-- RESET: its checks, and its one micro-step, which zeroes every cell of its context, sets Absorbing, ends the command and changes
nothing else; on a halted block it does nothing (41_state_ops.md R130). -/
def Obligations.ResetCommand : Prop :=
  ∀ (c : CtxIdx) (s : State), (s.fatal = true → exec (.reset c) s = .next s) ∧ (s.fatal = false →
    (s.run = none → ReservedBitsIllegal 1#4 0xFFFFFF00#32 s) ∧
    (s.run = none → s.cfg.ctxCount ≤ c.toNat → exec (.reset c) s = .next { s with err := .invalidContext }) ∧
    (s.run = none → c.toNat < s.cfg.ctxCount →
      exec (.reset c) s = .next { s with run := some { cmd := .reset c, len := s.len, pos := .whole } }) ∧
    ∀ r, s.run = some r → ∃ t, exec (.reset c) s = .next t ∧
      (∀ i, (t.ctx c).cell i = { p := 0#64, n := 0#64 }) ∧ (t.ctx c).dir = .absorbing ∧
      EndedOn c s t ∧ SameFifos s t ∧ t.engine = s.engine)

/-- CLONE: its checks, and its one micro-step, which makes the destination a copy of the source, cells and direction, ends the command
and changes nothing else; a clone onto itself changes no context (41_state_ops.md R133). -/
def Obligations.CloneCommand : Prop :=
  ∀ (d e : CtxIdx) (s : State), s.fatal = false →
    (s.run = none → ReservedBitsIllegal 2#4 0xFFFFF000#32 s) ∧
    (s.run = none → (s.cfg.ctxCount ≤ d.toNat ∨ s.cfg.ctxCount ≤ e.toNat) →
      exec (.clone d e) s = .next { s with err := .invalidContext }) ∧
    (s.run = none → d.toNat < s.cfg.ctxCount → e.toNat < s.cfg.ctxCount →
      exec (.clone d e) s = .next { s with run := some { cmd := .clone d e, len := s.len, pos := .whole } }) ∧
    ∀ r, s.run = some r → ∃ t, exec (.clone d e) s = .next t ∧
      (∀ i, (t.ctx d).cell i = (s.ctx e).cell i) ∧ (t.ctx d).dir = (s.ctx e).dir ∧ t.ctx e = s.ctx e ∧
      EndedOn d s t ∧ SameFifos s t ∧ t.engine = s.engine

/-- ENCODE: its checks in their order, and its one micro-step, which writes norm(v) into lane j of cell i and changes no other lane,
cell, direction or register (40_codec.md R115). -/
def Obligations.EncodeCommand : Prop :=
  ∀ (c : CtxIdx) (i : BitVec 10) (j : BitVec 6) (v : Byte) (s : State), s.fatal = false →
    (s.run = none → s.cfg.ctxCount ≤ c.toNat → exec (.encode c i j v) s = .next { s with err := .invalidContext }) ∧
    (s.run = none → c.toNat < s.cfg.ctxCount → 729 ≤ i.toNat →
      exec (.encode c i j v) s = .next { s with err := .invalidCell }) ∧
    (s.run = none → c.toNat < s.cfg.ctxCount → i.toNat < 729 → s.cfg.lanes ≤ j.toNat →
      exec (.encode c i j v) s = .next { s with err := .invalidLane }) ∧
    (s.run = none → c.toNat < s.cfg.ctxCount → i.toNat < 729 → j.toNat < s.cfg.lanes →
      exec (.encode c i j v) s = .next { s with run := some { cmd := .encode c i j v, len := s.len, pos := .whole } }) ∧
    ∀ r, s.run = some r → i.toNat < 729 → ∃ t, exec (.encode c i j v) s = .next t ∧
      dec ((t.ctx c).cell i.toNat) j.toNat = normOf v ∧
      (t.ctx c).cell i.toNat = enc ((s.ctx c).cell i.toNat) j.toNat (normOf v) ∧
      (∀ k l, k ≠ i.toNat ∨ l ≠ j.toNat → SameLane l ((t.ctx c).cell k) ((s.ctx c).cell k)) ∧
      (t.ctx c).dir = (s.ctx c).dir ∧ EndedOn c s t ∧ SameFifos s t ∧ t.engine = s.engine

/-- DECODE: its checks in their order, and its one micro-step, which puts the sign-extended code of lane j of cell i into RESULT and
changes no context (40_codec.md R118). -/
def Obligations.DecodeCommand : Prop :=
  ∀ (c : CtxIdx) (i : BitVec 10) (j : BitVec 6) (s : State), s.fatal = false →
    (s.run = none → ReservedBitsIllegal 7#4 0xFF000000#32 s) ∧
    (s.run = none → s.cfg.ctxCount ≤ c.toNat → exec (.decode c i j) s = .next { s with err := .invalidContext }) ∧
    (s.run = none → c.toNat < s.cfg.ctxCount → 729 ≤ i.toNat →
      exec (.decode c i j) s = .next { s with err := .invalidCell }) ∧
    (s.run = none → c.toNat < s.cfg.ctxCount → i.toNat < 729 → s.cfg.lanes ≤ j.toNat →
      exec (.decode c i j) s = .next { s with err := .invalidLane }) ∧
    (s.run = none → c.toNat < s.cfg.ctxCount → i.toNat < 729 → j.toNat < s.cfg.lanes →
      exec (.decode c i j) s = .next { s with run := some { cmd := .decode c i j, len := s.len, pos := .whole } }) ∧
    ∀ r, s.run = some r → ∃ t, exec (.decode c i j) s = .next t ∧
      t.result = (match dec ((s.ctx c).cell i.toNat) j.toNat with
        | .pos => 0x00000001#32
        | .zero => 0x00000000#32
        | .neg => 0xFFFFFFFF#32) ∧
      t.run = none ∧ t.err = .ok ∧ t.fatal = false ∧ SameOutside s t ∧ (∀ d, t.ctx d = s.ctx d) ∧ SameFifos s t ∧
      t.engine = s.engine

/-- PERMUTE: its checks, its transform micro-step, which changes the cells of its context and no direction and leaves the zero state
zero, and its final step (42_permutation.md R150). -/
def Obligations.PermuteCommand : Prop :=
  ∀ (c : CtxIdx) (s : State), s.fatal = false →
    (s.run = none → ReservedBitsIllegal 5#4 0xFFFFFF00#32 s) ∧
    (s.run = none → s.cfg.ctxCount ≤ c.toNat → exec (.permute c) s = .next { s with err := .invalidContext }) ∧
    (s.run = none → c.toNat < s.cfg.ctxCount →
      exec (.permute c) s = .next { s with run := some { cmd := .permute c, len := s.len, pos := .transform 0 } }) ∧
    (∀ r b, s.run = some r → r.pos = .transform b → ∃ t, exec (.permute c) s = .next t ∧
      (t.ctx c).cells = rounds s.cfg 81 (s.ctx c).cells ∧ (t.ctx c).dir = (s.ctx c).dir ∧
      ((∀ i, (s.ctx c).cell i = { p := 0#64, n := 0#64 }) → ∀ i, (t.ctx c).cell i = { p := 0#64, n := 0#64 }) ∧
      t.run = some { r with pos := .finish } ∧ SameStatus s t ∧ SameOtherContexts c s t ∧ SameFifos s t) ∧
    ∀ r, s.run = some r → r.pos = .finish → exec (.permute c) s = .next { s with run := none, err := .ok }

/-- ABSORB's merge: the oldest input entry is popped and written, normalised, into lane j of cell k, over whatever it held; the position
moves on in stream order; nothing else changes (43_protocol.md R172, R173, R174). -/
def Obligations.AbsorbMergeStep : Prop :=
  ∀ (c : CtxIdx) (n : BitVec 7) (s : State) (r : Running) (b j k : Nat) (v : Byte) (rest : List Byte),
    s.fatal = false → s.run = some r → r.pos = .merge b j k → s.inFifo = v :: rest → k < 243 →
    ∃ t, exec (.absorb c n) s = .next t ∧ t.inFifo = rest ∧
      (t.ctx c).cell k = enc ((s.ctx c).cell k) j (normOf v) ∧
      (∀ i, i ≠ k → (t.ctx c).cell i = (s.ctx c).cell i) ∧ (t.ctx c).dir = (s.ctx c).dir ∧
      t.run = some { r with
        pos :=
          if k < 242 then .merge b j (k + 1)
          else if j + 1 < n.toNat then .merge b (j + 1) 0
          else .transform b } ∧
      t.outFifo = s.outFifo ∧ t.engine = s.engine ∧ SameStatus s t ∧ SameOtherContexts c s t

/-- ABSORB's transform ends a block: 81 rounds of the context's cells, then the next block's first merge or the end of the command
(43_protocol.md R172). -/
def Obligations.AbsorbTransformStep : Prop :=
  ∀ (c : CtxIdx) (n : BitVec 7) (s : State) (r : Running) (b : Nat),
    s.fatal = false → s.run = some r → r.pos = .transform b →
    ∃ t, exec (.absorb c n) s = .next t ∧
      (t.ctx c).cells = rounds s.cfg 81 (s.ctx c).cells ∧ (t.ctx c).dir = (s.ctx c).dir ∧
      t.run = some { r with pos := if b + 1 < r.len.toNat / 243 then .merge (b + 1) 0 0 else .finish } ∧
      SameStatus s t ∧ SameOtherContexts c s t ∧ SameFifos s t

/-- SQUEEZE at the start of a block: a Squeezing context is transformed first, an Absorbing one is not and becomes Squeezing; the
direction write after a transform is a step of its own (43_protocol.md R178, R179). -/
def Obligations.SqueezeBlockSteps : Prop :=
  ∀ (c : CtxIdx) (n : BitVec 7) (s : State) (r : Running) (b : Nat), s.fatal = false → s.run = some r →
    (r.pos = .blockStart b → (s.ctx c).dir = .squeezing → ∃ t, exec (.squeeze c n) s = .next t ∧
      (t.ctx c).cells = rounds s.cfg 81 (s.ctx c).cells ∧ (t.ctx c).dir = .squeezing ∧
      t.run = some { r with pos := .direction b } ∧ SameStatus s t ∧ SameOtherContexts c s t ∧ SameFifos s t) ∧
    ((r.pos = .direction b ∨ r.pos = .blockStart b ∧ (s.ctx c).dir = .absorbing) → ∃ t, exec (.squeeze c n) s = .next t ∧
      (t.ctx c).cells = (s.ctx c).cells ∧ (t.ctx c).dir = .squeezing ∧
      t.run = some { r with pos := .emit b 0 0 } ∧ SameStatus s t ∧ SameOtherContexts c s t ∧ SameFifos s t ∧
      t.engine = s.engine)

/-- SQUEEZE's emit: the code of the digit in lane j of cell k joins the output FIFO, the position moves on in stream order, and no
context changes (43_protocol.md R178, R173). -/
def Obligations.SqueezeEmitStep : Prop :=
  ∀ (c : CtxIdx) (n : BitVec 7) (s : State) (r : Running) (b j k : Nat),
    s.fatal = false → s.run = some r → r.pos = .emit b j k → s.outFifo.length < s.cfg.ofifoDepth →
    ∃ t, exec (.squeeze c n) s = .next t ∧
      t.outFifo = s.outFifo ++ [codeOf (dec ((s.ctx c).cell k) j)] ∧
      t.run = some { r with
        pos :=
          if k < 242 then .emit b j (k + 1)
          else if j + 1 < n.toNat then .emit b (j + 1) 0
          else if b + 1 < r.len.toNat / 243 then .blockStart (b + 1)
          else .finish } ∧
      (∀ d, t.ctx d = s.ctx d) ∧ t.inFifo = s.inFifo ∧ t.engine = s.engine ∧ SameStatus s t

/-- ABSORB and SQUEEZE end with ERR = 0 and BUSY = 0 and nothing else changed (43_protocol.md R172, R178; 00_scope.md R17). -/
def Obligations.ProtocolFinalStep : Prop :=
  ∀ (c : CtxIdx) (n : BitVec 7) (s : State) (r : Running), s.fatal = false → s.run = some r → r.pos = .finish →
    exec (.absorb c n) s = .next { s with run := none, err := .ok } ∧
    exec (.squeeze c n) s = .next { s with run := none, err := .ok }

/-- A starved ABSORB and a SQUEEZE with the output FIFO full stall: the core has no enabled step, the command's step changes nothing,
and with nothing pending the machine stays as it is (70_reset_and_hazards.md R242). -/
def Obligations.StalledCommandsWait : Prop :=
  ∀ (c : CtxIdx) (n : BitVec 7) (s : State) (r : Running) (b j k : Nat), s.fatal = false → s.run = some r →
    (r.pos = .merge b j k → s.inFifo = [] →
      s.coreEnabled = false ∧ exec (.absorb c n) s = .next s ∧ (s.inputs = [] → step s = .next s)) ∧
    (r.pos = .emit b j k → s.cfg.ofifoDepth ≤ s.outFifo.length →
      s.coreEnabled = false ∧ exec (.squeeze c n) s = .next s ∧ (s.inputs = [] → step s = .next s))

/-! What commands leave alone -/

/-- No command writes the constants, LEN or a sticky bit, or touches the host's side (10_state.md R33; 60_exceptions.md R208). -/
def Obligations.CommandsKeepOutside : Prop :=
  ∀ (i : Instr) (s t : State), exec i s = .next t → SameOutside s t

/-- A command changes no cell and no direction of a context other than the one it writes; DECODE writes none (10_state.md R23). -/
def Obligations.CommandsKeepOtherContexts : Prop :=
  ∀ (i : Instr) (s t : State) (d : CtxIdx), exec i s = .next t → commandTarget i ≠ some d → t.ctx d = s.ctx d

/-- Only DECODE writes RESULT, only ABSORB pops input and at most one entry, only SQUEEZE pushes output and at most one entry, and only
the three commands that transform touch the engine (10_state.md R24; 20_memory.md R74). -/
def Obligations.CommandsWriteOnlyTheirRegisters : Prop :=
  ∀ (i : Instr) (s t : State), exec i s = .next t →
    (t.result ≠ s.result → ∃ c x j, i = .decode c x j) ∧
    (t.inFifo = s.inFifo ∨ (∃ c n, i = .absorb c n) ∧ ∃ v, s.inFifo = v :: t.inFifo) ∧
    (t.outFifo = s.outFifo ∨ (∃ c n, i = .squeeze c n) ∧ ∃ v, t.outFifo = s.outFifo ++ [v]) ∧
    (t.engine ≠ s.engine → ∃ c, i = .permute c ∨ (∃ n, i = .absorb c n) ∨ ∃ n, i = .squeeze c n)

/-- The merge of a block writes no lane outside the batch and no cell past the first 243, and writes exactly the stream's digits into
the rest (43_protocol.md R174, R175). -/
def Obligations.MergeWritesTheBatch : Prop :=
  ∀ (batch : Nat) (vs : List Byte) (x : Context), batch ≤ 64 →
    (∀ i j, batch ≤ j → SameLane j ((mergeBlock batch vs x).cell i) (x.cell i)) ∧
    (∀ i, 243 ≤ i → (mergeBlock batch vs x).cell i = x.cell i) ∧
    (∀ j k, j < batch → k < 243 → dec ((mergeBlock batch vs x).cell k) j = normOf (vs.getD (j * 243 + k) 0x00#8)) ∧
    (mergeBlock batch vs x).dir = x.dir

/-- DIR changes only by hardware reset and RESET (to Absorbing), CLONE (to the source's), and SQUEEZE (to Squeezing)
(43_protocol.md R170, 10_state.md R24). -/
def Obligations.DirectionChangesOnlyAsListed : Prop :=
  ∀ (s t : State) (c : CtxIdx), step s = .next t → (t.ctx c).dir ≠ (s.ctx c).dir →
    (s.inputs.head? = some .hardReset ∧ (t.ctx c).dir = .absorbing) ∨
    ∃ r, s.run = some r ∧
      ((r.cmd = .reset c ∧ (t.ctx c).dir = .absorbing) ∨
       (∃ e, r.cmd = .clone c e ∧ (t.ctx c).dir = (s.ctx e).dir) ∨
       (∃ n, r.cmd = .squeeze c n ∧ (t.ctx c).dir = .squeezing))

/-- A command that has passed its checks cannot fail: its micro-steps answer a next state, never halt the block, and write ERR only in
ending it with OK; it ends only with ERR = 0, and ERR keeps its value from issue until then (60_exceptions.md R204, 10_state.md R32). -/
def Obligations.RunningCommandsCannotFail : Prop :=
  ∀ (i : Instr) (s : State), ∃ t, exec i s = .next t ∧
    (s.run ≠ none → t.fatal = s.fatal ∧ (t.err = s.err ∨ t.err = .ok ∧ t.run = none)) ∧
    (s.run ≠ none → t.run = none → s.fatal = false → t.err = .ok) ∧
    (t.err ≠ s.err → t.run = none) ∧ (s.run = none → t.run ≠ none → t.err = s.err)

/-! Halt and reset -/

/-- While halted the core takes no step, every aligned write of the window changes nothing, a DOUT read returns 0 and pops nothing, every
other read returns its register and changes nothing, and only hardware reset clears FATAL (60_exceptions.md R206). -/
def Obligations.HaltedBlockIsFrozen : Prop :=
  ∀ s : State, s.fatal = true →
    s.coreEnabled = false ∧ (∀ i, exec i s = .next s) ∧
    (∀ off v, off % 4 = 0 → off < 64 → hostWrite s off 4 v = .next s) ∧
    hostRead s 0x14 4 = .next { s with seen := 0#32 :: s.seen } ∧
    (∀ off, off % 4 = 0 → off < 64 → off ≠ 0x14 →
      hostRead s off 4 = .next { s with seen := (readCsr s (Csr.ofOffset off)).1 :: s.seen }) ∧
    ∀ t, step s = .next t → t.fatal = true ∨ s.inputs.head? = some .hardReset

/-- Hardware reset: every piece of the block's state takes its reset value, whatever ran before; the constants stay; only hardware reset
clears FATAL; and State.reset is that state in the reference configuration (10_state.md R50, 70_reset_and_hazards.md R230). The engine's
scratch state, which the rule leaves unspecified, is not part of this statement. -/
def Obligations.HardwareResetValues : Prop :=
  (∀ s : State, ∃ t, hostInput s .hardReset = .next t ∧
    (∀ c i, (t.ctx c).cell i = { p := 0#64, n := 0#64 }) ∧ (∀ c, (t.ctx c).dir = .absorbing) ∧
    t.run = none ∧ statusWord t = 0x00000000#32 ∧ t.fatal = false ∧ t.overrun = false ∧ t.inOverflow = false ∧
    t.outUnderflow = false ∧ t.err = .ok ∧ t.len = 0#32 ∧ t.result = 0#32 ∧ t.inFifo = [] ∧ t.outFifo = [] ∧ t.cfg = s.cfg) ∧
  (∀ s t, s.fatal = true → step s = .next t → t.fatal = false → s.inputs.head? = some .hardReset) ∧
  (∀ c i, (State.reset.ctx c).cell i = { p := 0#64, n := 0#64 }) ∧ (∀ c, (State.reset.ctx c).dir = .absorbing) ∧
  State.reset.run = none ∧ statusWord State.reset = 0x00000000#32 ∧ State.reset.len = 0#32 ∧ State.reset.result = 0#32 ∧
  State.reset.inFifo = [] ∧ State.reset.outFifo = [] ∧ State.reset.cfg = Config.reference

/-! The registers -/

/-- LEN: a write stores all 32 bits, Busy or not, and changes nothing else, the running command's latched length included; a read
returns the stored value (10_state.md R33). -/
def Obligations.LengthRegister : Prop :=
  ∀ (s : State) (v : Word),
    (s.fatal = false → hostWrite s 0x04 4 v = .next { s with len := v }) ∧
    hostRead s 0x04 4 = .next { s with seen := s.len :: s.seen }

/-- STATUS: where each field stands in the word a read returns, reserved bits 0; and a write clears each of bits 2, 3 and 4 whose bit is
1 and changes nothing else (10_state.md R32). -/
def Obligations.StatusRegister : Prop :=
  (∀ s : State, ∃ w, hostRead s 0x08 4 = .next { s with seen := w :: s.seen } ∧
    w.getLsbD 0 = s.run.isSome ∧ w.getLsbD 1 = s.fatal ∧ w.getLsbD 2 = s.overrun ∧ w.getLsbD 3 = s.inOverflow ∧
    w.getLsbD 4 = s.outUnderflow ∧ w.extractLsb' 5 3 = 0#3 ∧ w.extractLsb' 8 4 = s.err.number ∧ w.extractLsb' 12 20 = 0#20) ∧
  ∀ (s : State) (v : Word), s.fatal = false →
    hostWrite s 0x08 4 v =
      .next { s with
        overrun := if v.getLsbD 2 then false else s.overrun
        inOverflow := if v.getLsbD 3 then false else s.inOverflow
        outUnderflow := if v.getLsbD 4 then false else s.outUnderflow }

/-- The numbers of the result codes (60_exceptions.md R200): 0 to 8, all different, none of 9 to 15. -/
def Obligations.ErrorCodeNumbers : Prop :=
  (ErrCode.ok.number = 0#4 ∧ ErrCode.invalidBatchSize.number = 1#4 ∧ ErrCode.invalidAbsorbLength.number = 2#4 ∧
    ErrCode.invalidSqueezeLength.number = 3#4 ∧ ErrCode.illegalCommand.number = 4#4 ∧ ErrCode.invalidContext.number = 5#4 ∧
    ErrCode.invalidCell.number = 6#4 ∧ ErrCode.invalidLane.number = 7#4 ∧ ErrCode.absorbAfterSqueeze.number = 8#4) ∧
  ∀ e : ErrCode, e.number.toNat ≤ 8

/-- RESULT: a read returns it, a write does nothing, at reset it is 0; a command changes it only as a DECODE that ends with ERR = 0; and
of all steps of the machine only the ending step of a running DECODE and hardware reset change it (10_state.md R34, R50). -/
def Obligations.ResultRegister : Prop :=
  State.reset.result = 0#32 ∧ ∀ s : State,
    hostRead s 0x0C 4 = .next { s with seen := s.result :: s.seen } ∧
    (∀ v, hostWrite s 0x0C 4 v = .next s) ∧
    (∀ i t, exec i s = .next t → t.result ≠ s.result →
      ∃ c x j, i = .decode c x j ∧ t.err = .ok ∧ t.run = none ∧
        t.result = (codeOf (dec ((s.ctx c).cell x.toNat) j.toNat)).signExtend 32) ∧
    ∀ t, step s = .next t → t.result ≠ s.result →
      (s.inputs.head? = some .hardReset ∧ t.result = 0#32) ∨
      ∃ r c x j, s.run = some r ∧ r.cmd = .decode c x j ∧ t.err = .ok ∧ t.run = none ∧
        t.result = (codeOf (dec ((s.ctx c).cell x.toNat) j.toNat)).signExtend 32

/-- DIN: a write appends bits [7:0] to the input FIFO if it has room, Busy or not, else only sets IN_OVERFLOW; halted it does nothing; a
read returns 0 (20_memory.md R72, 10_state.md R35). -/
def Obligations.InputFifoPush : Prop :=
  ∀ (s : State) (v : Word),
    (s.fatal = false → s.inFifo.length < s.cfg.ififoDepth →
      hostWrite s 0x10 4 v = .next { s with inFifo := s.inFifo ++ [v.extractLsb' 0 8] }) ∧
    (s.fatal = false → s.cfg.ififoDepth ≤ s.inFifo.length → hostWrite s 0x10 4 v = .next { s with inOverflow := true }) ∧
    (s.fatal = true → hostWrite s 0x10 4 v = .next s) ∧
    hostRead s 0x10 4 = .next { s with seen := 0#32 :: s.seen }

/-- DOUT: a read pops the oldest entry and returns it sign-extended, or returns 0 and sets OUT_UNDERFLOW if there is none; halted it
returns 0 and changes nothing; a write does nothing (20_memory.md R73, 10_state.md R36). -/
def Obligations.OutputFifoPop : Prop :=
  ∀ s : State,
    (∀ v rest, s.fatal = false → s.outFifo = v :: rest →
      hostRead s 0x14 4 = .next { s with outFifo := rest, seen := v.signExtend 32 :: s.seen }) ∧
    (s.fatal = false → s.outFifo = [] →
      hostRead s 0x14 4 = .next { s with outUnderflow := true, seen := 0#32 :: s.seen }) ∧
    (s.fatal = true → hostRead s 0x14 4 = .next { s with seen := 0#32 :: s.seen }) ∧
    ∀ v, hostWrite s 0x14 4 v = .next s

/-- FIFO_STATUS holds IN_COUNT in bits 15:0 and OUT_COUNT in bits 31:16, in every state whose FIFOs are within their depths; a
write does nothing; at reset it is 0 (10_state.md R37). -/
def Obligations.FifoCountRegister : Prop :=
  fifoStatusWord State.reset = 0#32 ∧ (∀ s v, hostWrite s 0x18 4 v = .next s) ∧ ∀ s : State, s.cfg.Valid → s.FifosBounded →
    ∃ w, hostRead s 0x18 4 = .next { s with seen := w :: s.seen } ∧
      (w.extractLsb' 0 16).toNat = s.inFifo.length ∧ (w.extractLsb' 16 16).toNat = s.outFifo.length

/-- CONFIG and FIFO_CFG show the parameters, which no write to them and no step changes (nor any other constant: the permutation table is
one of them, R25), and in the reference configuration they read 0x00025140 and 0x01000100 (10_state.md R38, R42). -/
def Obligations.ParameterRegisters : Prop :=
  (∀ s : State, s.cfg.Valid → ∃ w u,
    hostRead s 0x1C 4 = .next { s with seen := w :: s.seen } ∧ hostRead s 0x24 4 = .next { s with seen := u :: s.seen } ∧
    (w.extractLsb' 0 8).toNat = s.cfg.lanes ∧ (w.extractLsb' 8 8).toNat = 81 ∧ (w.extractLsb' 16 8).toNat = s.cfg.ctxCount ∧
    w.extractLsb' 24 8 = 0#8 ∧
    (u.extractLsb' 0 16).toNat = s.cfg.ififoDepth ∧ (u.extractLsb' 16 16).toNat = s.cfg.ofifoDepth) ∧
  (∀ s v, hostWrite s 0x1C 4 v = .next s ∧ hostWrite s 0x24 4 v = .next s) ∧ (∀ s t, step s = .next t → t.cfg = s.cfg) ∧
  configWord Config.reference = 0x00025140#32 ∧ fifoCfgWord Config.reference = 0x01000100#32

/-- DIRS: bit c is 1 exactly where context c exists and is Squeezing, and every other bit is 0, a
write does nothing, at reset it is 0 (10_state.md R39). -/
def Obligations.DirectionsRegister : Prop :=
  dirsWord State.reset = 0#32 ∧ (∀ s v, hostWrite s 0x20 4 v = .next s) ∧ ∀ s : State, s.cfg.Valid → ∃ w,
    hostRead s 0x20 4 = .next { s with seen := w :: s.seen } ∧
    (∀ c : CtxIdx, c.toNat < s.cfg.ctxCount → (w.getLsbD c.toNat = true ↔ (s.ctx c).dir = .squeezing)) ∧
    (∀ b, s.cfg.ctxCount ≤ b → w.getLsbD b = false)

/-- A write to a read-only register or a reserved offset has no effect, a reserved offset reads 0, and a read of any register but DOUT
changes nothing of the block: only the host has seen a word (10_state.md R30; 20_memory.md R65). -/
def Obligations.AccessesWithoutEffect : Prop :=
  ∀ (s : State) (off : Nat), off % 4 = 0 → off < 64 →
    ((off = 0x0C ∨ off = 0x14 ∨ off = 0x18 ∨ off = 0x1C ∨ off = 0x20 ∨ off = 0x24 ∨ 0x28 ≤ off) →
      ∀ v, hostWrite s off 4 v = .next s) ∧
    (0x28 ≤ off → hostRead s off 4 = .next { s with seen := 0#32 :: s.seen }) ∧
    (off ≠ 0x14 → ∃ w, hostRead s off 4 = .next { s with seen := w :: s.seen })

/-- An access that is not 32 bits wide or not aligned is refused (20_memory.md R61, R62); an aligned 32-bit access past the window
faults, which is the model's choice (log entry 9); every other access answers a next state. -/
def Obligations.AccessesOutsideTheInterfaceStop : Prop :=
  ∀ (s : State) (off size : Nat) (v : Word),
    (size ≠ 4 →
      hostRead s off size = .refused (.accessWidth size) ∧ hostWrite s off size v = .refused (.accessWidth size)) ∧
    (off % 4 ≠ 0 →
      hostRead s off 4 = .refused (.misaligned off) ∧ hostWrite s off 4 v = .refused (.misaligned off)) ∧
    (off % 4 = 0 → 64 ≤ off →
      hostRead s off 4 = .fault (.outsideWindow off) ∧ hostWrite s off 4 v = .fault (.outsideWindow off)) ∧
    (off % 4 = 0 → off < 64 → (∃ t, hostRead s off 4 = .next t) ∧ ∃ t, hostWrite s off 4 v = .next t)

/-! Steps -/

/-- A step runs the decoded command: when the host's next access writes to CMD a word that decodes to i, the block idle and not halted,
the step is exec of i on the state with that access taken; and a state made by withFetchWord is such a state (10_state.md R31, R40). -/
def Obligations.StepRunsDecodedCommand : Prop :=
  (∀ (s : State) (w : Word) (i : Instr) (rest : List HostInput), s.fatal = false → s.run = none →
    s.inputs = .write 0x00 4 w :: rest → decode w = .ok i → step s = exec i { s with inputs := rest }) ∧
  ∀ (s : State) (w : Nat) (i : Instr), decodeTableWord 32 w = some i →
    step (s.withFetchWord 32 w) = exec i { s with run := none, fatal := false }

/-- A step is one step of one agent: alone, the agent that has a step makes it; where both have one, the schedule's next entry says
which and is used up, so that every interleaving is the run of some schedule, and past the schedule's end a free value says which (log
entry 5); where neither has one, nothing changes (log entry 6) (20_memory.md R76, R64; 10_state.md R41). -/
def Obligations.StepIsOneAgentsStep : Prop :=
  ∀ s : State,
    (∀ r, s.run = some r → s.coreEnabled = true → s.inputs = [] → step s = exec r.cmd s) ∧
    (∀ x rest, s.coreEnabled = false → s.inputs = x :: rest → step s = hostInput { s with inputs := rest } x) ∧
    (∀ r ts, s.run = some r → s.coreEnabled = true → s.inputs ≠ [] → s.turns = .core :: ts →
      step s = exec r.cmd { s with turns := ts, clock := s.clock + 1 }) ∧
    (∀ x rest ts, s.coreEnabled = true → s.inputs = x :: rest → s.turns = .host :: ts →
      step s = hostInput { s with inputs := rest, turns := ts, clock := s.clock + 1 } x) ∧
    (∀ r x rest, s.run = some r → s.coreEnabled = true → s.inputs = x :: rest → s.turns = [] →
      step s =
        match Config.freeTurn s.clock with
        | .core => exec r.cmd { s with clock := s.clock + 1 }
        | .host => hostInput { s with inputs := rest, clock := s.clock + 1 } x) ∧
    (s.coreEnabled = false → s.inputs = [] → step s = .next s)

/-! Invariants -/

/-- The reset state of every legal configuration meets the invariant (10_state.md R50). -/
def Obligations.ResetMeetsInvariant : Prop := ∀ g : Config, g.Valid → (State.resetOf g).Inv

/-- Every step keeps the invariant: exclusive planes, W-bit words, bounded FIFOs, digit codes only, a consistent halt, zero spare slots,
and a sequencer that stands at a micro-step of its command (10_state.md R22, R27; 20_memory.md R70; 40_codec.md R111; 60_exceptions.md
R204, R206). -/
def Obligations.StepKeepsInvariant : Prop := ∀ s t : State, s.Inv → step s = .next t → t.Inv

/-- The exclusivity invariant is kept by every step on its own, from every state that has it (10_state.md R22). -/
def Obligations.StepKeepsExclusivity : Prop := ∀ s t : State, s.Exclusive → step s = .next t → t.Exclusive

/-! Runs of a whole command. Their step counts, `absorbSteps` and `squeezeSteps`, take `complete()` as a step of its own (log entry 3). -/

/-- ABSORB from issue to its end, with its input queued and no host access between: in `absorbSteps` steps it pops exactly B·L entries,
merges and transforms block by block as the rule's loop says, and ends with ERR = 0, every other context and register as before
(43_protocol.md R172, R173, R176; the step count rests on log entry 3). -/
def Obligations.AbsorbRunsToCompletion : Prop :=
  ∀ (c : CtxIdx) (n : BitVec 7) (s : State), s.fatal = false → s.run = none → c.toNat < s.cfg.ctxCount → 1 ≤ n.toNat →
    n.toNat ≤ s.cfg.lanes → s.len.toNat % 243 = 0 → (s.ctx c).dir = .absorbing → n.toNat * s.len.toNat ≤ s.inFifo.length →
    ∃ t, execTimes (absorbSteps n.toNat s.len.toNat) (.absorb c n) s = .next t ∧
      t.ctx c = absorbBlocks s.cfg n.toNat (s.len.toNat / 243) s.inFifo (s.ctx c) ∧
      t.inFifo = s.inFifo.drop (n.toNat * s.len.toNat) ∧ t.outFifo = s.outFifo ∧ EndedOn c s t

/-- SQUEEZE from issue to its end, with room for its output and no host access between: in `squeezeSteps` steps it pushes exactly the
B·L entries of the rule's loop in stream order, and ends with ERR = 0, every other context and register as before (43_protocol.md R178,
R173, R179, R180; the step count rests on log entries 3 and 18). -/
def Obligations.SqueezeRunsToCompletion : Prop :=
  ∀ (c : CtxIdx) (n : BitVec 7) (s : State), s.fatal = false → s.run = none → c.toNat < s.cfg.ctxCount → 1 ≤ n.toNat →
    n.toNat ≤ s.cfg.lanes → s.len.toNat % 243 = 0 → s.outFifo.length + n.toNat * s.len.toNat ≤ s.cfg.ofifoDepth →
    ∃ t, execTimes (squeezeSteps (s.ctx c).dir n.toNat s.len.toNat) (.squeeze c n) s = .next t ∧
      t.ctx c = (squeezeBlocks s.cfg n.toNat (s.len.toNat / 243) (s.ctx c)).1 ∧
      t.outFifo = s.outFifo ++ (squeezeBlocks s.cfg n.toNat (s.len.toNat / 243) (s.ctx c)).2 ∧
      t.inFifo = s.inFifo ∧ EndedOn c s t

/-- Batched hashing is per-lane hashing: from a zero context, absorbing a stream and squeezing gives each lane of the batch, at its places
in the output stream, the one-lane hash of its own digits (43_protocol.md R185, R173). -/
def Obligations.BatchHashIsPerLaneHash : Prop :=
  ∀ (g : Config) (batch nIn nOut : Nat) (vs : List Byte) (b j k : Nat), batch ≤ g.lanes → j < batch → b < nOut → k < 243 →
    (squeezeBlocks g batch nOut (absorbBlocks g batch nIn vs Context.zero)).2.getD ((b * batch + j) * 243 + k) 0x7F#8 =
      codeOf ((laneHash g nIn nOut (laneOfStream batch j nIn vs)).getD (b * 243 + k) .zero)

/-- Splitting. An ABSORB of L1 followed by an ABSORB of L2 ends in the state that one ABSORB of L1+L2 of the same queue ends in, but for
LEN, which the host wrote, and the engine's hidden scratch state. A SQUEEZE of L1 followed by a SQUEEZE of L2 leaves the context that one
SQUEEZE of L1+L2 leaves and emits the same digits for every lane that both emit, whatever the three batch sizes are; where these are
equal it ends in the same state, with the same two exceptions (43_protocol.md R177,
R183; the step counts rest on log entries 3 and 18). -/
def Obligations.BlocksSplit : Prop :=
  (∀ (c : CtxIdx) (n : BitVec 7) (s : State) (l₁ l₂ : Nat), s.fatal = false → s.run = none → c.toNat < s.cfg.ctxCount →
    1 ≤ n.toNat → n.toNat ≤ s.cfg.lanes → l₁ % 243 = 0 → l₂ % 243 = 0 → l₁ + l₂ < 2 ^ 32 → (s.ctx c).dir = .absorbing →
    n.toNat * (l₁ + l₂) ≤ s.inFifo.length →
    ∃ t₁ t₂ t,
      execTimes (absorbSteps n.toNat l₁) (.absorb c n) { s with len := BitVec.ofNat 32 l₁ } = .next t₁ ∧
      execTimes (absorbSteps n.toNat l₂) (.absorb c n) { t₁ with len := BitVec.ofNat 32 l₂ } = .next t₂ ∧
      execTimes (absorbSteps n.toNat (l₁ + l₂)) (.absorb c n) { s with len := BitVec.ofNat 32 (l₁ + l₂) } = .next t ∧
      t₁.run = none ∧ t₁.err = .ok ∧ t.run = none ∧ t.err = .ok ∧ t.inFifo = s.inFifo.drop (n.toNat * (l₁ + l₂)) ∧
      t₂ = { t with len := BitVec.ofNat 32 l₂, engine := t₂.engine }) ∧
  ∀ (c : CtxIdx) (n₁ n₂ n : BitVec 7) (s : State) (l₁ l₂ : Nat), s.fatal = false → s.run = none → c.toNat < s.cfg.ctxCount →
    1 ≤ n₁.toNat → n₁.toNat ≤ s.cfg.lanes → 1 ≤ n₂.toNat → n₂.toNat ≤ s.cfg.lanes → 1 ≤ n.toNat → n.toNat ≤ s.cfg.lanes →
    l₁ % 243 = 0 → l₂ % 243 = 0 → l₁ + l₂ < 2 ^ 32 →
    s.outFifo.length + n₁.toNat * l₁ + n₂.toNat * l₂ ≤ s.cfg.ofifoDepth →
    s.outFifo.length + n.toNat * (l₁ + l₂) ≤ s.cfg.ofifoDepth →
    ∃ t₁ t₂ t,
      execTimes (squeezeSteps (s.ctx c).dir n₁.toNat l₁) (.squeeze c n₁) { s with len := BitVec.ofNat 32 l₁ } = .next t₁ ∧
      execTimes (squeezeSteps (t₁.ctx c).dir n₂.toNat l₂) (.squeeze c n₂) { t₁ with len := BitVec.ofNat 32 l₂ } = .next t₂ ∧
      execTimes (squeezeSteps (s.ctx c).dir n.toNat (l₁ + l₂)) (.squeeze c n) { s with len := BitVec.ofNat 32 (l₁ + l₂) } = .next t ∧
      t₁.run = none ∧ t₁.err = .ok ∧ t₂.run = none ∧ t₂.err = .ok ∧ t.run = none ∧ t.err = .ok ∧ t₂.ctx c = t.ctx c ∧
      t₂.outFifo.length = s.outFifo.length + n₁.toNat * l₁ + n₂.toNat * l₂ ∧
      t.outFifo.length = s.outFifo.length + n.toNat * (l₁ + l₂) ∧
      (∀ b j k, b < l₁ / 243 → j < n₁.toNat → j < n.toNat → k < 243 →
        t₂.outFifo[s.outFifo.length + ((b * n₁.toNat + j) * 243 + k)]? =
          t.outFifo[s.outFifo.length + ((b * n.toNat + j) * 243 + k)]?) ∧
      (∀ b j k, b < l₂ / 243 → j < n₂.toNat → j < n.toNat → k < 243 →
        t₂.outFifo[s.outFifo.length + n₁.toNat * l₁ + ((b * n₂.toNat + j) * 243 + k)]? =
          t.outFifo[s.outFifo.length + (((l₁ / 243 + b) * n.toNat + j) * 243 + k)]?) ∧
      (n₁ = n → n₂ = n → t₂ = { t with len := BitVec.ofNat 32 l₂, engine := t₂.engine })

/-! Runs with the host beside them -/

/-- ABSORB issued by a CMD write and fed while it runs: whatever the interleaving of the host's DIN writes with the micro-steps, stalls
included, once every one of them is made the block has absorbed exactly the first B·L entries of what was queued and pushed, and the
surplus stays queued (43_protocol.md R172; 20_memory.md R72, R76; 70_reset_and_hazards.md R242, R243). The host pushes no more than
the input FIFO has room for at the start; the step count rests on log entry 3, the interleaving is free
(log entry 5). -/
def Obligations.AbsorbTakesInputAsItComes : Prop :=
  ∀ (c : CtxIdx) (n : BitVec 7) (vs : List Byte) (s : State), s.fatal = false → s.run = none → c.toNat < s.cfg.ctxCount →
    1 ≤ n.toNat → n.toNat ≤ s.cfg.lanes → s.len.toNat % 243 = 0 → (s.ctx c).dir = .absorbing →
    n.toNat * s.len.toNat ≤ s.inFifo.length + vs.length → s.inFifo.length + vs.length ≤ s.cfg.ififoDepth →
    s.inputs = .write 0x00 4 (encode (.absorb c n)) :: vs.map (fun v => .write 0x10 4 (v.setWidth 32)) →
    ∃ t, stepTimes (absorbSteps n.toNat s.len.toNat + vs.length) s = .next t ∧
      t.ctx c = absorbBlocks s.cfg n.toNat (s.len.toNat / 243) (s.inFifo ++ vs) (s.ctx c) ∧
      t.inFifo = (s.inFifo ++ vs).drop (n.toNat * s.len.toNat) ∧ t.outFifo = s.outFifo ∧
      t.run = none ∧ t.err = .ok ∧ t.fatal = false ∧ t.inputs = [] ∧ t.seen = s.seen ∧ SameBeside c s t

/-- SQUEEZE issued by a CMD write and drained while it runs: whatever the interleaving of the host's m DOUT reads with the micro-steps,
stalls on a full FIFO included, once every one of them is made the reads have returned the first m entries in order and the rest of the
stream is queued (43_protocol.md R178; 20_memory.md R73, R76; 70_reset_and_hazards.md R242). The host reads no more than was queued at
the start, so that no schedule lets it read an empty FIFO; the step count rests on log entries 3 and 18, the
interleaving is free (log entry 5). -/
def Obligations.SqueezeWaitsForRoom : Prop :=
  ∀ (c : CtxIdx) (n : BitVec 7) (m : Nat) (s : State), s.fatal = false → s.run = none → c.toNat < s.cfg.ctxCount →
    1 ≤ n.toNat → n.toNat ≤ s.cfg.lanes → s.len.toNat % 243 = 0 → m ≤ s.outFifo.length →
    s.outFifo.length + n.toNat * s.len.toNat ≤ s.cfg.ofifoDepth + m →
    s.inputs = .write 0x00 4 (encode (.squeeze c n)) :: List.replicate m (.read 0x14 4) →
    ∃ t, stepTimes (squeezeSteps (s.ctx c).dir n.toNat s.len.toNat + m) s = .next t ∧
      t.ctx c = (squeezeBlocks s.cfg n.toNat (s.len.toNat / 243) (s.ctx c)).1 ∧
      t.outFifo = (s.outFifo ++ (squeezeBlocks s.cfg n.toNat (s.len.toNat / 243) (s.ctx c)).2).drop m ∧
      t.seen = ((s.outFifo.take m).map fun v => v.signExtend 32).reverse ++ s.seen ∧ t.inFifo = s.inFifo ∧
      t.run = none ∧ t.err = .ok ∧ t.fatal = false ∧ t.inputs = [] ∧ SameBeside c s t
end

