-- ==== Sys2Proof/Laws/Codec.lean ====
section
/-! SUPPORT. Words bit by bit: the placed field and the decoder's fields. -/

namespace Sys2Proof

/-- Bit k of a placed field: bit k - lo of the field, 0 below it and past the word. -/
theorem place_getLsbD {n : Nat} (v : BitVec n) (lo k : Nat) :
    (place v lo).getLsbD k = (decide (k < 32) && decide (lo ≤ k) && v.getLsbD (k - lo)) := by
  unfold place
  rw [BitVec.getLsbD_shiftLeft, BitVec.getLsbD_setWidth]
  by_cases h32 : k < 32 <;> by_cases hlo : lo ≤ k
  · simp [h32, hlo, Nat.not_lt.mpr hlo, Nat.lt_of_le_of_lt (Nat.sub_le k lo) h32]
  all_goals simp [h32, hlo]

/-- Reading back a field that fits gives it, whatever stands beside it, provided the other parts are 0 there. -/
theorem extract_or_place {n : Nat} (u : Word) (v : BitVec n) (lo : Nat) (h : lo + n ≤ 32)
    (hu : u.extractLsb' lo n = 0#n) : (u ||| place v lo).extractLsb' lo n = v := by
  apply BitVec.eq_of_getLsbD_eq
  intro k hk
  have h0 : u.getLsbD (lo + k) = false := by
    have := congrArg (fun x => x.getLsbD k) hu
    simpa [hk] using this
  rw [BitVec.getLsbD_extractLsb', BitVec.getLsbD_or, h0, place_getLsbD]
  have hk32 : lo + k < 32 := by omega
  simp [hk, hk32]

end Sys2Proof
end

