-- ==== Sys2Proof/Laws/State.lean ====
section
/-! SUPPORT. What each update of the state does to each field, one lemma per field per update, all true by computation, so that no
proof unfolds a record update. -/

namespace Sys2Proof.Machine

/-! `State.setCtx` -/

@[simp] theorem State.setCtx_cfg (s : State) (c : CtxIdx) (x : Context) : (s.setCtx c x).cfg = s.cfg := rfl
@[simp] theorem State.setCtx_ctxs (s : State) (c : CtxIdx) (x : Context) : (s.setCtx c x).ctxs = s.ctxs.set c.toNat x c.isLt := rfl
@[simp] theorem State.setCtx_engine (s : State) (c : CtxIdx) (x : Context) : (s.setCtx c x).engine = s.engine := rfl
@[simp] theorem State.setCtx_run (s : State) (c : CtxIdx) (x : Context) : (s.setCtx c x).run = s.run := rfl
@[simp] theorem State.setCtx_fatal (s : State) (c : CtxIdx) (x : Context) : (s.setCtx c x).fatal = s.fatal := rfl
@[simp] theorem State.setCtx_overrun (s : State) (c : CtxIdx) (x : Context) : (s.setCtx c x).overrun = s.overrun := rfl
@[simp] theorem State.setCtx_inOverflow (s : State) (c : CtxIdx) (x : Context) : (s.setCtx c x).inOverflow = s.inOverflow := rfl
@[simp] theorem State.setCtx_outUnderflow (s : State) (c : CtxIdx) (x : Context) : (s.setCtx c x).outUnderflow = s.outUnderflow := rfl
@[simp] theorem State.setCtx_err (s : State) (c : CtxIdx) (x : Context) : (s.setCtx c x).err = s.err := rfl
@[simp] theorem State.setCtx_len (s : State) (c : CtxIdx) (x : Context) : (s.setCtx c x).len = s.len := rfl
@[simp] theorem State.setCtx_result (s : State) (c : CtxIdx) (x : Context) : (s.setCtx c x).result = s.result := rfl
@[simp] theorem State.setCtx_inFifo (s : State) (c : CtxIdx) (x : Context) : (s.setCtx c x).inFifo = s.inFifo := rfl
@[simp] theorem State.setCtx_outFifo (s : State) (c : CtxIdx) (x : Context) : (s.setCtx c x).outFifo = s.outFifo := rfl
@[simp] theorem State.setCtx_inputs (s : State) (c : CtxIdx) (x : Context) : (s.setCtx c x).inputs = s.inputs := rfl
@[simp] theorem State.setCtx_seen (s : State) (c : CtxIdx) (x : Context) : (s.setCtx c x).seen = s.seen := rfl
@[simp] theorem State.setCtx_turns (s : State) (c : CtxIdx) (x : Context) : (s.setCtx c x).turns = s.turns := rfl
@[simp] theorem State.setCtx_clock (s : State) (c : CtxIdx) (x : Context) : (s.setCtx c x).clock = s.clock := rfl

/-! `State.raise` -/

@[simp] theorem State.raise_cfg (s : State) (e : ErrCode) : (s.raise e).cfg = s.cfg := rfl
@[simp] theorem State.raise_ctxs (s : State) (e : ErrCode) : (s.raise e).ctxs = s.ctxs := rfl
@[simp] theorem State.raise_engine (s : State) (e : ErrCode) : (s.raise e).engine = s.engine := rfl
@[simp] theorem State.raise_run (s : State) (e : ErrCode) : (s.raise e).run = s.run := rfl
@[simp] theorem State.raise_fatal (s : State) (e : ErrCode) : (s.raise e).fatal = (s.fatal || e.isFatal) := rfl
@[simp] theorem State.raise_overrun (s : State) (e : ErrCode) : (s.raise e).overrun = s.overrun := rfl
@[simp] theorem State.raise_inOverflow (s : State) (e : ErrCode) : (s.raise e).inOverflow = s.inOverflow := rfl
@[simp] theorem State.raise_outUnderflow (s : State) (e : ErrCode) : (s.raise e).outUnderflow = s.outUnderflow := rfl
@[simp] theorem State.raise_err (s : State) (e : ErrCode) : (s.raise e).err = e := rfl
@[simp] theorem State.raise_len (s : State) (e : ErrCode) : (s.raise e).len = s.len := rfl
@[simp] theorem State.raise_result (s : State) (e : ErrCode) : (s.raise e).result = s.result := rfl
@[simp] theorem State.raise_inFifo (s : State) (e : ErrCode) : (s.raise e).inFifo = s.inFifo := rfl
@[simp] theorem State.raise_outFifo (s : State) (e : ErrCode) : (s.raise e).outFifo = s.outFifo := rfl
@[simp] theorem State.raise_inputs (s : State) (e : ErrCode) : (s.raise e).inputs = s.inputs := rfl
@[simp] theorem State.raise_seen (s : State) (e : ErrCode) : (s.raise e).seen = s.seen := rfl
@[simp] theorem State.raise_turns (s : State) (e : ErrCode) : (s.raise e).turns = s.turns := rfl
@[simp] theorem State.raise_clock (s : State) (e : ErrCode) : (s.raise e).clock = s.clock := rfl

/-! `State.complete` -/

@[simp] theorem State.complete_cfg (s : State) : s.complete.cfg = s.cfg := rfl
@[simp] theorem State.complete_ctxs (s : State) : s.complete.ctxs = s.ctxs := rfl
@[simp] theorem State.complete_engine (s : State) : s.complete.engine = s.engine := rfl
@[simp] theorem State.complete_run (s : State) : s.complete.run = none := rfl
@[simp] theorem State.complete_fatal (s : State) : s.complete.fatal = s.fatal := rfl
@[simp] theorem State.complete_overrun (s : State) : s.complete.overrun = s.overrun := rfl
@[simp] theorem State.complete_inOverflow (s : State) : s.complete.inOverflow = s.inOverflow := rfl
@[simp] theorem State.complete_outUnderflow (s : State) : s.complete.outUnderflow = s.outUnderflow := rfl
@[simp] theorem State.complete_err (s : State) : s.complete.err = .ok := rfl
@[simp] theorem State.complete_len (s : State) : s.complete.len = s.len := rfl
@[simp] theorem State.complete_result (s : State) : s.complete.result = s.result := rfl
@[simp] theorem State.complete_inFifo (s : State) : s.complete.inFifo = s.inFifo := rfl
@[simp] theorem State.complete_outFifo (s : State) : s.complete.outFifo = s.outFifo := rfl
@[simp] theorem State.complete_inputs (s : State) : s.complete.inputs = s.inputs := rfl
@[simp] theorem State.complete_seen (s : State) : s.complete.seen = s.seen := rfl
@[simp] theorem State.complete_turns (s : State) : s.complete.turns = s.turns := rfl
@[simp] theorem State.complete_clock (s : State) : s.complete.clock = s.clock := rfl

/-! `State.advance` -/

@[simp] theorem State.advance_cfg (s : State) (p : Pos) : (s.advance p).cfg = s.cfg := rfl
@[simp] theorem State.advance_ctxs (s : State) (p : Pos) : (s.advance p).ctxs = s.ctxs := rfl
@[simp] theorem State.advance_engine (s : State) (p : Pos) : (s.advance p).engine = s.engine := rfl
@[simp] theorem State.advance_run (s : State) (p : Pos) : (s.advance p).run = s.run.map fun r => { r with pos := p } := rfl
@[simp] theorem State.advance_fatal (s : State) (p : Pos) : (s.advance p).fatal = s.fatal := rfl
@[simp] theorem State.advance_overrun (s : State) (p : Pos) : (s.advance p).overrun = s.overrun := rfl
@[simp] theorem State.advance_inOverflow (s : State) (p : Pos) : (s.advance p).inOverflow = s.inOverflow := rfl
@[simp] theorem State.advance_outUnderflow (s : State) (p : Pos) : (s.advance p).outUnderflow = s.outUnderflow := rfl
@[simp] theorem State.advance_err (s : State) (p : Pos) : (s.advance p).err = s.err := rfl
@[simp] theorem State.advance_len (s : State) (p : Pos) : (s.advance p).len = s.len := rfl
@[simp] theorem State.advance_result (s : State) (p : Pos) : (s.advance p).result = s.result := rfl
@[simp] theorem State.advance_inFifo (s : State) (p : Pos) : (s.advance p).inFifo = s.inFifo := rfl
@[simp] theorem State.advance_outFifo (s : State) (p : Pos) : (s.advance p).outFifo = s.outFifo := rfl
@[simp] theorem State.advance_inputs (s : State) (p : Pos) : (s.advance p).inputs = s.inputs := rfl
@[simp] theorem State.advance_seen (s : State) (p : Pos) : (s.advance p).seen = s.seen := rfl
@[simp] theorem State.advance_turns (s : State) (p : Pos) : (s.advance p).turns = s.turns := rfl
@[simp] theorem State.advance_clock (s : State) (p : Pos) : (s.advance p).clock = s.clock := rfl

/-! `State.transform` -/

@[simp] theorem State.transform_cfg (s : State) (c : CtxIdx) : (s.transform c).cfg = s.cfg := rfl
@[simp] theorem State.transform_engine (s : State) (c : CtxIdx) : (s.transform c).engine = (engineTransform s.cfg (s.ctx c).cells s.engine).2 := rfl
@[simp] theorem State.transform_run (s : State) (c : CtxIdx) : (s.transform c).run = s.run := rfl
@[simp] theorem State.transform_fatal (s : State) (c : CtxIdx) : (s.transform c).fatal = s.fatal := rfl
@[simp] theorem State.transform_overrun (s : State) (c : CtxIdx) : (s.transform c).overrun = s.overrun := rfl
@[simp] theorem State.transform_inOverflow (s : State) (c : CtxIdx) : (s.transform c).inOverflow = s.inOverflow := rfl
@[simp] theorem State.transform_outUnderflow (s : State) (c : CtxIdx) : (s.transform c).outUnderflow = s.outUnderflow := rfl
@[simp] theorem State.transform_err (s : State) (c : CtxIdx) : (s.transform c).err = s.err := rfl
@[simp] theorem State.transform_len (s : State) (c : CtxIdx) : (s.transform c).len = s.len := rfl
@[simp] theorem State.transform_result (s : State) (c : CtxIdx) : (s.transform c).result = s.result := rfl
@[simp] theorem State.transform_inFifo (s : State) (c : CtxIdx) : (s.transform c).inFifo = s.inFifo := rfl
@[simp] theorem State.transform_outFifo (s : State) (c : CtxIdx) : (s.transform c).outFifo = s.outFifo := rfl
@[simp] theorem State.transform_inputs (s : State) (c : CtxIdx) : (s.transform c).inputs = s.inputs := rfl
@[simp] theorem State.transform_seen (s : State) (c : CtxIdx) : (s.transform c).seen = s.seen := rfl
@[simp] theorem State.transform_turns (s : State) (c : CtxIdx) : (s.transform c).turns = s.turns := rfl
@[simp] theorem State.transform_clock (s : State) (c : CtxIdx) : (s.transform c).clock = s.clock := rfl

/-! `State.pushOut` -/

@[simp] theorem State.pushOut_cfg (s : State) (v : Byte) : (s.pushOut v).cfg = s.cfg := rfl
@[simp] theorem State.pushOut_ctxs (s : State) (v : Byte) : (s.pushOut v).ctxs = s.ctxs := rfl
@[simp] theorem State.pushOut_engine (s : State) (v : Byte) : (s.pushOut v).engine = s.engine := rfl
@[simp] theorem State.pushOut_run (s : State) (v : Byte) : (s.pushOut v).run = s.run := rfl
@[simp] theorem State.pushOut_fatal (s : State) (v : Byte) : (s.pushOut v).fatal = s.fatal := rfl
@[simp] theorem State.pushOut_overrun (s : State) (v : Byte) : (s.pushOut v).overrun = s.overrun := rfl
@[simp] theorem State.pushOut_inOverflow (s : State) (v : Byte) : (s.pushOut v).inOverflow = s.inOverflow := rfl
@[simp] theorem State.pushOut_outUnderflow (s : State) (v : Byte) : (s.pushOut v).outUnderflow = s.outUnderflow := rfl
@[simp] theorem State.pushOut_err (s : State) (v : Byte) : (s.pushOut v).err = s.err := rfl
@[simp] theorem State.pushOut_len (s : State) (v : Byte) : (s.pushOut v).len = s.len := rfl
@[simp] theorem State.pushOut_result (s : State) (v : Byte) : (s.pushOut v).result = s.result := rfl
@[simp] theorem State.pushOut_inFifo (s : State) (v : Byte) : (s.pushOut v).inFifo = s.inFifo := rfl
@[simp] theorem State.pushOut_outFifo (s : State) (v : Byte) : (s.pushOut v).outFifo = s.outFifo ++ [v] := rfl
@[simp] theorem State.pushOut_inputs (s : State) (v : Byte) : (s.pushOut v).inputs = s.inputs := rfl
@[simp] theorem State.pushOut_seen (s : State) (v : Byte) : (s.pushOut v).seen = s.seen := rfl
@[simp] theorem State.pushOut_turns (s : State) (v : Byte) : (s.pushOut v).turns = s.turns := rfl
@[simp] theorem State.pushOut_clock (s : State) (v : Byte) : (s.pushOut v).clock = s.clock := rfl

/-! `State.clearSticky` -/

@[simp] theorem State.clearSticky_cfg (s : State) (v : Word) : (s.clearSticky v).cfg = s.cfg := rfl
@[simp] theorem State.clearSticky_ctxs (s : State) (v : Word) : (s.clearSticky v).ctxs = s.ctxs := rfl
@[simp] theorem State.clearSticky_engine (s : State) (v : Word) : (s.clearSticky v).engine = s.engine := rfl
@[simp] theorem State.clearSticky_run (s : State) (v : Word) : (s.clearSticky v).run = s.run := rfl
@[simp] theorem State.clearSticky_fatal (s : State) (v : Word) : (s.clearSticky v).fatal = s.fatal := rfl
@[simp] theorem State.clearSticky_overrun (s : State) (v : Word) : (s.clearSticky v).overrun = (s.overrun && !v.getLsbD 2) := rfl
@[simp] theorem State.clearSticky_inOverflow (s : State) (v : Word) : (s.clearSticky v).inOverflow = (s.inOverflow && !v.getLsbD 3) := rfl
@[simp] theorem State.clearSticky_outUnderflow (s : State) (v : Word) : (s.clearSticky v).outUnderflow = (s.outUnderflow && !v.getLsbD 4) := rfl
@[simp] theorem State.clearSticky_err (s : State) (v : Word) : (s.clearSticky v).err = s.err := rfl
@[simp] theorem State.clearSticky_len (s : State) (v : Word) : (s.clearSticky v).len = s.len := rfl
@[simp] theorem State.clearSticky_result (s : State) (v : Word) : (s.clearSticky v).result = s.result := rfl
@[simp] theorem State.clearSticky_inFifo (s : State) (v : Word) : (s.clearSticky v).inFifo = s.inFifo := rfl
@[simp] theorem State.clearSticky_outFifo (s : State) (v : Word) : (s.clearSticky v).outFifo = s.outFifo := rfl
@[simp] theorem State.clearSticky_inputs (s : State) (v : Word) : (s.clearSticky v).inputs = s.inputs := rfl
@[simp] theorem State.clearSticky_seen (s : State) (v : Word) : (s.clearSticky v).seen = s.seen := rfl
@[simp] theorem State.clearSticky_turns (s : State) (v : Word) : (s.clearSticky v).turns = s.turns := rfl
@[simp] theorem State.clearSticky_clock (s : State) (v : Word) : (s.clearSticky v).clock = s.clock := rfl

/-! `State.hardReset` -/

@[simp] theorem State.hardReset_cfg (s : State) : s.hardReset.cfg = s.cfg := rfl
@[simp] theorem State.hardReset_ctxs (s : State) : s.hardReset.ctxs = Vector.replicate slotCount Context.zero := rfl
@[simp] theorem State.hardReset_engine (s : State) : s.hardReset.engine = Engine.reset := rfl
@[simp] theorem State.hardReset_run (s : State) : s.hardReset.run = none := rfl
@[simp] theorem State.hardReset_fatal (s : State) : s.hardReset.fatal = false := rfl
@[simp] theorem State.hardReset_overrun (s : State) : s.hardReset.overrun = false := rfl
@[simp] theorem State.hardReset_inOverflow (s : State) : s.hardReset.inOverflow = false := rfl
@[simp] theorem State.hardReset_outUnderflow (s : State) : s.hardReset.outUnderflow = false := rfl
@[simp] theorem State.hardReset_err (s : State) : s.hardReset.err = .ok := rfl
@[simp] theorem State.hardReset_len (s : State) : s.hardReset.len = 0#32 := rfl
@[simp] theorem State.hardReset_result (s : State) : s.hardReset.result = 0#32 := rfl
@[simp] theorem State.hardReset_inFifo (s : State) : s.hardReset.inFifo = [] := rfl
@[simp] theorem State.hardReset_outFifo (s : State) : s.hardReset.outFifo = [] := rfl
@[simp] theorem State.hardReset_inputs (s : State) : s.hardReset.inputs = s.inputs := rfl
@[simp] theorem State.hardReset_seen (s : State) : s.hardReset.seen = s.seen := rfl
@[simp] theorem State.hardReset_turns (s : State) : s.hardReset.turns = s.turns := rfl
@[simp] theorem State.hardReset_clock (s : State) : s.hardReset.clock = s.clock := rfl

/-! `State.afterChoice` touches the schedule alone. -/

@[simp] theorem State.afterChoice_cfg (s : State) : s.afterChoice.cfg = s.cfg := by
  unfold State.afterChoice; split <;> rfl
@[simp] theorem State.afterChoice_ctxs (s : State) : s.afterChoice.ctxs = s.ctxs := by
  unfold State.afterChoice; split <;> rfl
@[simp] theorem State.afterChoice_engine (s : State) : s.afterChoice.engine = s.engine := by
  unfold State.afterChoice; split <;> rfl
@[simp] theorem State.afterChoice_run (s : State) : s.afterChoice.run = s.run := by
  unfold State.afterChoice; split <;> rfl
@[simp] theorem State.afterChoice_fatal (s : State) : s.afterChoice.fatal = s.fatal := by
  unfold State.afterChoice; split <;> rfl
@[simp] theorem State.afterChoice_overrun (s : State) : s.afterChoice.overrun = s.overrun := by
  unfold State.afterChoice; split <;> rfl
@[simp] theorem State.afterChoice_inOverflow (s : State) : s.afterChoice.inOverflow = s.inOverflow := by
  unfold State.afterChoice; split <;> rfl
@[simp] theorem State.afterChoice_outUnderflow (s : State) : s.afterChoice.outUnderflow = s.outUnderflow := by
  unfold State.afterChoice; split <;> rfl
@[simp] theorem State.afterChoice_err (s : State) : s.afterChoice.err = s.err := by
  unfold State.afterChoice; split <;> rfl
@[simp] theorem State.afterChoice_len (s : State) : s.afterChoice.len = s.len := by
  unfold State.afterChoice; split <;> rfl
@[simp] theorem State.afterChoice_result (s : State) : s.afterChoice.result = s.result := by
  unfold State.afterChoice; split <;> rfl
@[simp] theorem State.afterChoice_inFifo (s : State) : s.afterChoice.inFifo = s.inFifo := by
  unfold State.afterChoice; split <;> rfl
@[simp] theorem State.afterChoice_outFifo (s : State) : s.afterChoice.outFifo = s.outFifo := by
  unfold State.afterChoice; split <;> rfl
@[simp] theorem State.afterChoice_inputs (s : State) : s.afterChoice.inputs = s.inputs := by
  unfold State.afterChoice; split <;> rfl
@[simp] theorem State.afterChoice_seen (s : State) : s.afterChoice.seen = s.seen := by
  unfold State.afterChoice; split <;> rfl
@[simp] theorem State.afterChoice_turns (s : State) : s.afterChoice.turns = if s.choiceOpen then s.turns.tail else s.turns := by
  unfold State.afterChoice; split <;> rfl
@[simp] theorem State.afterChoice_clock (s : State) : s.afterChoice.clock = if s.choiceOpen then s.clock + 1 else s.clock := by
  unfold State.afterChoice; split <;> rfl

end Sys2Proof.Machine
end

