-- ==== Sys2Proof/Laws/Ops.lean ====
section
/-! SUPPORT. One lemma per shared operation: contexts and cells, issue and the command wrapper, the FIFOs, who moves. -/

namespace Sys2Proof.Machine

/-! Contexts. -/

@[simp] theorem State.ctx_setCtx_self (s : State) (c : CtxIdx) (x : Context) : (s.setCtx c x).ctx c = x := by
  simp [State.ctx]

theorem State.ctx_setCtx_other (s : State) {c d : CtxIdx} (x : Context) (h : d ≠ c) : (s.setCtx c x).ctx d = s.ctx d := by
  have hn : c.toNat ≠ d.toNat := fun e => h (BitVec.eq_of_toNat_eq e.symm)
  simp [State.ctx, hn]

/-- Reading any context after writing one. -/
theorem State.ctx_setCtx (s : State) (c d : CtxIdx) (x : Context) :
    (s.setCtx c x).ctx d = if d = c then x else s.ctx d := by
  by_cases h : d = c
  · subst h; simp
  · rw [if_neg h, State.ctx_setCtx_other s x h]

/-- `State.ctx` reads the contexts and nothing else. -/
theorem State.ctx_congr {s t : State} (h : t.ctxs = s.ctxs) (c : CtxIdx) : t.ctx c = s.ctx c := by
  simp only [State.ctx, h]

@[simp] theorem State.ctx_raise (s : State) (e : ErrCode) (c : CtxIdx) : (s.raise e).ctx c = s.ctx c := rfl
@[simp] theorem State.ctx_complete (s : State) (c : CtxIdx) : s.complete.ctx c = s.ctx c := rfl
@[simp] theorem State.ctx_advance (s : State) (p : Pos) (c : CtxIdx) : (s.advance p).ctx c = s.ctx c := rfl
@[simp] theorem State.ctx_pushOut (s : State) (v : Byte) (c : CtxIdx) : (s.pushOut v).ctx c = s.ctx c := rfl
@[simp] theorem State.ctx_clearSticky (s : State) (v : Word) (c : CtxIdx) : (s.clearSticky v).ctx c = s.ctx c := rfl

@[simp] theorem State.ctx_hardReset (s : State) (c : CtxIdx) : s.hardReset.ctx c = Context.zero := by
  simp [State.ctx]

@[simp] theorem State.ctx_afterChoice (s : State) (c : CtxIdx) : s.afterChoice.ctx c = s.ctx c :=
  State.ctx_congr (State.afterChoice_ctxs s) c

/-- The transform writes the cells of its context and of no other, and no direction (42_permutation.md R146). -/
theorem State.ctx_transform (s : State) (c d : CtxIdx) :
    (s.transform c).ctx d =
      if d = c then { s.ctx c with cells := (engineTransform s.cfg (s.ctx c).cells s.engine).1 } else s.ctx d :=
  State.ctx_setCtx s c d _

@[simp] theorem State.transform_dir (s : State) (c d : CtxIdx) : ((s.transform c).ctx d).dir = (s.ctx d).dir := by
  rw [State.ctx_transform]
  split
  · next h => rw [h]
  · rfl

/-! Cells and digits. -/

@[simp] theorem Context.cell_zero (i : Nat) : Context.zero.cell i = Cell.zero := by
  by_cases h : i < stateSize <;> simp [Context.cell, Context.zero, Cells.zero, h]

/-- Reading any cell after writing one: a cell index past the array writes nothing. -/
theorem Context.cell_setCell (x : Context) (i k : Nat) (v : Cell) :
    (x.setCell i v).cell k = if k = i ∧ i < stateSize then v else x.cell k := by
  unfold Context.cell Context.setCell
  simp only [Vector.getElem?_setIfInBounds]
  by_cases hk : i = k
  · subst hk
    by_cases hi : i < stateSize
    · simp [hi]
    · simp [hi]
  · simp [hk, Ne.symm hk]

@[simp] theorem Context.setCell_dir (x : Context) (i : Nat) (v : Cell) : (x.setCell i v).dir = x.dir := rfl
@[simp] theorem Context.putDigit_dir (x : Context) (i j : Nat) (d : Digit) : (x.putDigit i j d).dir = x.dir := rfl
@[simp] theorem Context.setDir_dir (x : Context) (d : Direction) : (x.setDir d).dir = d := rfl
@[simp] theorem Context.setDir_cells (x : Context) (d : Direction) : (x.setDir d).cells = x.cells := rfl
@[simp] theorem Context.setDir_cell (x : Context) (d : Direction) (i : Nat) : (x.setDir d).cell i = x.cell i := rfl

/-- Writing a digit changes one cell, by `enc`. -/
theorem Context.cell_putDigit (x : Context) (i j k : Nat) (d : Digit) :
    (x.putDigit i j d).cell k = if k = i ∧ i < stateSize then enc (x.cell i) j d else x.cell k :=
  Context.cell_setCell x i k _

/-- The digit codes are told apart by their byte (40_codec.md R111). -/
@[simp] theorem normOf_codeOf (d : Digit) : normOf (codeOf d) = d := by cases d <;> decide

/-! Issue and the command wrapper. -/

theorem firstFailure_none (l : List Check) : firstFailure l = none ↔ ∀ x ∈ l, x.1 = true := by
  induction l with
  | nil => simp [firstFailure]
  | cons x l ih => rcases x with ⟨b, e⟩; cases b <;> simp [firstFailure, ih]

/-- A reported code is that of a check that failed. -/
theorem firstFailure_mem {l : List Check} {e : ErrCode} (h : firstFailure l = some e) : (false, e) ∈ l := by
  induction l with
  | nil => simp [firstFailure] at h
  | cons x l ih =>
    rcases x with ⟨b, f⟩
    cases b
    · simp only [firstFailure, Option.some.injEq] at h
      simp [h]
    · exact List.mem_cons_of_mem _ (ih h)

theorem issue_passed {i : Instr} {l : List Check} {p : Pos} {s : State} (h : firstFailure l = none) :
    issue i l p s = { s with run := some { cmd := i, len := s.len, pos := p } } := by
  simp [issue, h]

theorem issue_failed {i : Instr} {l : List Check} {p : Pos} {s : State} {e : ErrCode} (h : firstFailure l = some e) :
    issue i l p s = s.raise e := by
  simp [issue, h]

theorem runCommand_halted {i : Instr} {l : List Check} {p : Pos} {m : Running → State} {s : State} (h : s.fatal = true) :
    runCommand i l p m s = .next s := by
  simp [runCommand, h]

theorem runCommand_idle {i : Instr} {l : List Check} {p : Pos} {m : Running → State} {s : State} (hf : s.fatal = false)
    (hr : s.run = none) : runCommand i l p m s = .next (issue i l p s) := by
  simp [runCommand, hf, hr]

theorem runCommand_busy {i : Instr} {l : List Check} {p : Pos} {m : Running → State} {s : State} {r : Running}
    (hf : s.fatal = false) (hr : s.run = some r) : runCommand i l p m s = .next (m r) := by
  simp [runCommand, hf, hr]

/-- Everything one step of a command can do: nothing while halted, a failed or a passed issue at Idle, a micro-step at Busy. -/
theorem runCommand_cases {i : Instr} {l : List Check} {p : Pos} {m : Running → State} {s t : State}
    (h : runCommand i l p m s = .next t) :
    (s.fatal = true ∧ t = s) ∨
    (s.fatal = false ∧ s.run = none ∧ ∃ e, firstFailure l = some e ∧ t = s.raise e) ∨
    (s.fatal = false ∧ s.run = none ∧ firstFailure l = none ∧
      t = { s with run := some { cmd := i, len := s.len, pos := p } }) ∨
    (s.fatal = false ∧ ∃ r, s.run = some r ∧ t = m r) := by
  rcases Bool.eq_false_or_eq_true s.fatal with hf | hf
  · rw [runCommand_halted hf] at h
    cases h
    exact .inl ⟨hf, rfl⟩
  · rcases hr : s.run with _ | r
    · rw [runCommand_idle hf hr] at h
      cases h
      rcases he : firstFailure l with _ | e
      · exact .inr (.inr (.inl ⟨hf, rfl, rfl, issue_passed he⟩))
      · exact .inr (.inl ⟨hf, rfl, e, rfl, issue_failed he⟩)
    · rw [runCommand_busy hf hr] at h
      cases h
      exact .inr (.inr (.inr ⟨hf, r, rfl, rfl⟩))

/-! The FIFOs. -/

theorem State.pushIn_room {s : State} (v : Byte) (hf : s.fatal = false) (h : s.inFifo.length < s.cfg.ififoDepth) :
    s.pushIn v = { s with inFifo := s.inFifo ++ [v] } := by
  simp [State.pushIn, hf, h]

theorem State.pushIn_full {s : State} (v : Byte) (hf : s.fatal = false) (h : s.cfg.ififoDepth ≤ s.inFifo.length) :
    s.pushIn v = { s with inOverflow := true } := by
  simp [State.pushIn, hf, Nat.not_lt.mpr h]

/-- Everything a DIN write can do (20_memory.md R72). -/
theorem State.pushIn_cases (s : State) (v : Byte) :
    (s.fatal = true ∧ s.pushIn v = s) ∨
    (s.inFifo.length < s.cfg.ififoDepth ∧ s.pushIn v = { s with inFifo := s.inFifo ++ [v] }) ∨
    (s.cfg.ififoDepth ≤ s.inFifo.length ∧ s.pushIn v = { s with inOverflow := true }) := by
  rcases Bool.eq_false_or_eq_true s.fatal with hf | hf
  · exact .inl ⟨hf, by simp [State.pushIn, hf]⟩
  · by_cases h : s.inFifo.length < s.cfg.ififoDepth
    · exact .inr (.inl ⟨h, State.pushIn_room v hf h⟩)
    · exact .inr (.inr ⟨Nat.not_lt.mp h, State.pushIn_full v hf (Nat.not_lt.mp h)⟩)

/-- Everything a DOUT read can do (20_memory.md R73). -/
theorem State.popOut_cases (s : State) :
    (s.fatal = true ∧ s.popOut = (0#32, s)) ∨
    (∃ v rest, s.outFifo = v :: rest ∧ s.popOut = (sext32 v, { s with outFifo := rest })) ∨
    (s.outFifo = [] ∧ s.popOut = (0#32, { s with outUnderflow := true })) := by
  rcases Bool.eq_false_or_eq_true s.fatal with hf | hf
  · exact .inl ⟨hf, by simp [State.popOut, hf]⟩
  · rcases ho : s.outFifo with _ | ⟨v, rest⟩
    · exact .inr (.inr ⟨rfl, by simp [State.popOut, hf, ho]⟩)
    · exact .inr (.inl ⟨v, rest, rfl, by simp [State.popOut, hf, ho]⟩)

/-! Who moves. -/

/-- The four cases of the choice between the agents (20_memory.md R76). -/
theorem State.mover_cases (s : State) :
    (s.coreEnabled = true ∧ s.hostEnabled = true ∧ s.mover = some s.nextTurn) ∨
    (s.coreEnabled = true ∧ s.hostEnabled = false ∧ s.mover = some .core) ∨
    (s.coreEnabled = false ∧ s.hostEnabled = true ∧ s.mover = some .host) ∨
    (s.coreEnabled = false ∧ s.hostEnabled = false ∧ s.mover = none) := by
  cases hc : s.coreEnabled <;> cases hh : s.hostEnabled <;> simp [State.mover, hc, hh]

theorem State.afterChoice_closed {s : State} (h : s.choiceOpen = false) : s.afterChoice = s := by
  simp [State.afterChoice, h]

end Sys2Proof.Machine
end

