-- ==== Sys2Proof/Laws/Commands.lean ====
section
/-! SUPPORT. The checks, the first micro-step and the micro-steps of each command in one place, and the four cases of `exec` read
off them once for all commands. -/

namespace Sys2Proof.Machine

/-- The issue checks of a command, in their order. -/
def issueChecks (i : Instr) (s : State) : List Check :=
  match i with
  | .reset c => [checkContext s.cfg c]
  | .clone d e => [checkContext s.cfg d, checkContext s.cfg e]
  | .absorb c b =>
    [checkContext s.cfg c, checkBatch s.cfg b, checkLength s.len .invalidAbsorbLength, checkDirection (s.ctx c).dir]
  | .squeeze c b => [checkContext s.cfg c, checkBatch s.cfg b, checkLength s.len .invalidSqueezeLength]
  | .permute c => [checkContext s.cfg c]
  | .encode c i j _ => [checkContext s.cfg c, checkCell i, checkLane s.cfg j]
  | .decode c i j => [checkContext s.cfg c, checkCell i, checkLane s.cfg j]

/-- The position a command starts at. -/
def startPos (i : Instr) (len : Word) : Pos :=
  match i with
  | .reset _ => .whole
  | .clone _ _ => .whole
  | .absorb _ _ => absorbBlock len 0
  | .squeeze _ _ => squeezeBlock len 0
  | .permute _ => .transform 0
  | .encode _ _ _ _ => .whole
  | .decode _ _ _ => .whole

/-- The micro-step of a command at a position. -/
def microStep (i : Instr) (s : State) (r : Running) : State :=
  match i with
  | .reset c => (s.setCtx c Context.zero).complete
  | .clone d e => (s.setCtx d (s.ctx e)).complete
  | .absorb c b => absorbStep c b s r
  | .squeeze c b => squeezeStep c b s r
  | .permute c => permuteStep c s r
  | .encode c i j v => (s.setCtx c ((s.ctx c).putDigit i.toNat j.toNat (normOf v))).complete
  | .decode c i j => { s with result := sext32 (codeOf ((s.ctx c).digit i.toNat j.toNat)) }.complete

/-- Every command is the shared wrapper over its checks, its start and its micro-steps. -/
theorem exec_eq_runCommand (i : Instr) (s : State) :
    exec i s = runCommand i (issueChecks i s) (startPos i s.len) (microStep i s) s := by
  cases i <;> rfl

/-- The inversion of `exec`: everything one step of a command can do. -/
theorem exec_cases {i : Instr} {s t : State} (h : exec i s = .next t) :
    (s.fatal = true ∧ t = s) ∨
    (s.fatal = false ∧ s.run = none ∧ ∃ e, firstFailure (issueChecks i s) = some e ∧ t = s.raise e) ∨
    (s.fatal = false ∧ s.run = none ∧ firstFailure (issueChecks i s) = none ∧
      t = { s with run := some { cmd := i, len := s.len, pos := startPos i s.len } }) ∨
    (s.fatal = false ∧ ∃ r, s.run = some r ∧ t = microStep i s r) :=
  runCommand_cases ((exec_eq_runCommand i s).symm.trans h)

theorem exec_busy {i : Instr} {s : State} {r : Running} (hf : s.fatal = false) (hr : s.run = some r) :
    exec i s = .next (microStep i s r) :=
  (exec_eq_runCommand i s).trans (runCommand_busy hf hr)

theorem exec_idle {i : Instr} {s : State} (hf : s.fatal = false) (hr : s.run = none) :
    exec i s = .next (issue i (issueChecks i s) (startPos i s.len) s) :=
  (exec_eq_runCommand i s).trans (runCommand_idle hf hr)

/-- Everything PERMUTE's micro-step can do. -/
theorem permuteStep_cases (c : CtxIdx) (s : State) (r : Running) :
    ((∃ b, r.pos = .transform b) ∧ permuteStep c s r = (s.transform c).advance .finish) ∨
    (r.pos = .finish ∧ permuteStep c s r = s.complete) ∨ permuteStep c s r = s := by
  unfold permuteStep
  cases r.pos <;> simp

/-- Everything ABSORB's micro-step can do: stall, merge, transform, end. -/
theorem absorbStep_cases (c : CtxIdx) (n : BitVec 7) (s : State) (r : Running) :
    (∃ b j k v rest, r.pos = .merge b j k ∧ s.inFifo = v :: rest ∧
      absorbStep c n s r =
        { s.setCtx c ((s.ctx c).putDigit k j (normOf v)) with inFifo := rest }.advance (absorbNext n.toNat b j k)) ∨
    (∃ b, r.pos = .transform b ∧ absorbStep c n s r = (s.transform c).advance (absorbBlock r.len (b + 1))) ∨
    (r.pos = .finish ∧ absorbStep c n s r = s.complete) ∨ absorbStep c n s r = s := by
  unfold absorbStep
  cases r.pos with
  | merge b j k => cases s.inFifo <;> simp
  | _ => simp

/-- Everything SQUEEZE's micro-step can do: transform, write the direction, emit, stall, end. -/
theorem squeezeStep_cases (c : CtxIdx) (n : BitVec 7) (s : State) (r : Running) :
    (∃ b, r.pos = .blockStart b ∧ (s.ctx c).dir = .squeezing ∧
      squeezeStep c n s r = (s.transform c).advance (.direction b)) ∨
    (∃ b, (r.pos = .direction b ∨ r.pos = .blockStart b ∧ (s.ctx c).dir = .absorbing) ∧
      squeezeStep c n s r = directionWrite c b s) ∨
    (∃ b j k, r.pos = .emit b j k ∧ s.outHasRoom = true ∧
      squeezeStep c n s r = (s.pushOut (codeOf ((s.ctx c).digit k j))).advance (squeezeNext r.len n.toNat b j k)) ∨
    (r.pos = .finish ∧ squeezeStep c n s r = s.complete) ∨ squeezeStep c n s r = s := by
  unfold squeezeStep
  cases r.pos with
  | blockStart b => cases h : (s.ctx c).dir <;> simp
  | emit b j k => cases h : s.outHasRoom <;> simp
  | _ => simp

end Sys2Proof.Machine
end

