-- ==== Sys2Proof/Laws/Engine.lean ====
section
/-! SUPPORT. The small lemmas of the codec, the S-box, the round and the engine: everything bit by bit or cell by cell, so that no
proof unfolds them. -/

namespace Sys2Proof.Machine

/-! Words bit by bit. -/

theorem laneMask_getLsbD (j k : Nat) : (laneMask j).getLsbD k = (decide (k < 64) && decide (k = j)) := by
  unfold laneMask
  rw [BitVec.getLsbD_shiftLeft, BitVec.getLsbD_one]
  by_cases h64 : k < 64 <;> by_cases h : k = j <;> simp [h64, h]
  all_goals omega

/-- A bit lies in a plane word exactly where its lane exists. -/
theorem planeMask_getLsbD (g : Config) (k : Nat) : (planeMask g).getLsbD k = decide (k < g.lanes) := by
  by_cases hk : k < 64
  · cases h : g.width with
    | w32 =>
      simp only [planeMask, h, Config.lanes, LaneWidth.lanes]
      interval_cases k <;> decide
    | w64 =>
      simp only [planeMask, h, Config.lanes, LaneWidth.lanes]
      interval_cases k <;> decide
  · rw [BitVec.getLsbD_of_ge _ _ (Nat.not_lt.mp hk)]
    have : ¬k < g.lanes := by cases h : g.width <;> simp [Config.lanes, LaneWidth.lanes, h] <;> omega
    simp [this]

theorem lanes_le (g : Config) : g.lanes ≤ 64 := by
  cases h : g.width <;> simp [Config.lanes, LaneWidth.lanes, h]

/-- The S-box in one lane (42_permutation.md R140). -/
theorem sbox_getLsbD (g : Config) (x y : Cell) {k : Nat} (hk : k < g.lanes) :
    (sbox g x y).p.getLsbD k = ((x.n.getLsbD k ^^ y.p.getLsbD k) && !x.p.getLsbD k) ∧
    (sbox g x y).n.getLsbD k = (!(x.n.getLsbD k ^^ y.p.getLsbD k) && !(x.p.getLsbD k ^^ y.n.getLsbD k)) := by
  have h64 : k < 64 := Nat.lt_of_lt_of_le hk (lanes_le g)
  simp [sbox, planeMask_getLsbD, hk, h64]

/-- Outside the lanes the S-box gives 0. -/
theorem sbox_getLsbD_outside (g : Config) (x y : Cell) {k : Nat} (hk : g.lanes ≤ k) :
    (sbox g x y).p.getLsbD k = false ∧ (sbox g x y).n.getLsbD k = false := by
  simp [sbox, planeMask_getLsbD, Nat.not_lt.mpr hk]

/-! The round cell by cell. -/

theorem Cells.cellAt_lt (x : Cells) {i : Nat} (h : i < stateSize) : x.cellAt i = x[i] := by
  simp [Cells.cellAt, h]

theorem Context.cell_eq_cellAt (x : Context) (i : Nat) : x.cell i = x.cells.cellAt i := rfl

/-- Two arrays with the same cells are the same array. -/
theorem Cells.ext_cellAt {x y : Cells} (h : ∀ i, i < stateSize → x.cellAt i = y.cellAt i) : x = y := by
  apply Vector.ext
  intro i hi
  have := h i hi
  rwa [Cells.cellAt_lt x hi, Cells.cellAt_lt y hi] at this

theorem tableEntry_lt (g : Config) {k : Nat} (h : k < tableSize) : tableEntry g k = (g.permTable[k]).val := by
  simp [tableEntry, h]

/-- Every table entry is a cell index (10_state.md R25). -/
theorem tableEntry_bound (g : Config) (k : Nat) : tableEntry g k < stateSize := by
  by_cases h : k < tableSize
  · rw [tableEntry_lt g h]; exact (g.permTable[k]).isLt
  · have hn : g.permTable[k]? = none := by simpa using h
    simp [tableEntry, hn]

/-- One cell of a round (42_permutation.md R145). -/
theorem roundOf_cellAt (g : Config) (x : Cells) {i : Nat} (h : i < stateSize) :
    (roundOf g x).cellAt i = sbox g (x.cellAt (tableEntry g i)) (x.cellAt (tableEntry g (i + 1))) := by
  rw [Cells.cellAt_lt _ h, Cells.cellAt_lt _ (tableEntry_bound g i), Cells.cellAt_lt _ (tableEntry_bound g (i + 1))]
  simp only [tableEntry_lt g (Nat.lt_succ_of_lt h), tableEntry_lt g (Nat.succ_lt_succ h)]
  simp [roundOf]

/-! Rounds one after another. -/

theorem Buffers.run_zero (g : Config) (b : Buffers) : Buffers.run g 0 b = b := by unfold Buffers.run; rfl

theorem Buffers.run_succ (g : Config) (n : Nat) (b : Buffers) :
    Buffers.run g (n + 1) b = Buffers.run g n (b.roundStep g) := by
  rw [Buffers.run]

/-- One step of the engine turns the current input into its round, whichever buffer holds it. -/
theorem Buffers.roundStep_current (g : Config) (b : Buffers) : (b.roundStep g).current = roundOf g b.current := by
  unfold Buffers.roundStep Buffers.current
  cases h : b.engine.role <;> rfl

theorem rounds_zero (g : Config) (x : Cells) : rounds g 0 x = x := by unfold rounds; rfl

theorem rounds_succ (g : Config) (n : Nat) (x : Cells) : rounds g (n + 1) x = rounds g n (roundOf g x) := by
  rw [rounds]

theorem laneRounds_zero (g : Config) (x : LaneCells) : laneRounds g 0 x = x := by unfold laneRounds; rfl

theorem laneRounds_succ (g : Config) (n : Nat) (x : LaneCells) :
    laneRounds g (n + 1) x = laneRounds g n (laneRound g x) := by
  rw [laneRounds]

end Sys2Proof.Machine
end

