-- ==== Sys2Proof/Laws/HostPort.lean ====
section
/-! SUPPORT. What a host access does once it is known to be a 32-bit aligned access of the window, and the cases of a step. -/

namespace Sys2Proof.Machine

theorem accessStop_none {off : Nat} (ha : off % 4 = 0) (hw : off < 64) : accessStop off 4 = none := by
  simp [accessStop, ha, hw]

theorem hostWrite_aligned {s : State} {off : Nat} {v : Word} (ha : off % 4 = 0) (hw : off < 64) :
    hostWrite s off 4 v = writeCsr s v (Csr.ofOffset off) := by
  simp [hostWrite, accessStop_none ha hw]

theorem hostRead_aligned {s : State} {off : Nat} (ha : off % 4 = 0) (hw : off < 64) :
    hostRead s off 4 =
      .next { (readCsr s (Csr.ofOffset off)).2 with seen := (readCsr s (Csr.ofOffset off)).1 :: s.seen } := by
  simp [hostRead, accessStop_none ha hw]

/-- A read changes nothing but what DOUT's read changes (20_memory.md R65). -/
theorem readCsr_state {s : State} {r : Csr} (h : r ≠ .dout) : (readCsr s r).2 = s := by
  cases r <;> simp_all [readCsr]

/-- A halted block ignores every write (60_exceptions.md R206). -/
theorem writeCsr_halted {s : State} {v : Word} {r : Csr} (h : s.fatal = true) : writeCsr s v r = .next s := by
  simp [writeCsr, h]

/-- Everything one step can be: the core's, the host's, or none. -/
theorem step_cases (s : State) :
    (s.coreEnabled = true ∧ step s = coreStep s.afterChoice) ∨
    (s.hostEnabled = true ∧ step s = hostStep s.afterChoice) ∨
    (s.coreEnabled = false ∧ s.hostEnabled = false ∧ step s = .next s) := by
  rcases State.mover_cases s with ⟨hc, hh, hm⟩ | ⟨hc, hh, hm⟩ | ⟨hc, hh, hm⟩ | ⟨hc, hh, hm⟩
  · cases ht : s.nextTurn with
    | core => exact .inl ⟨hc, by simp [step, hm, ht]⟩
    | host => exact .inr (.inl ⟨hh, by simp [step, hm, ht]⟩)
  · exact .inl ⟨hc, by simp [step, hm]⟩
  · exact .inr (.inl ⟨hh, by simp [step, hm]⟩)
  · exact .inr (.inr ⟨hc, hh, by simp [step, hm]⟩)

end Sys2Proof.Machine
end

