-- ==== Sys2Proof/Laws/PerInstr.lean ====
section
/-! SUPPORT. One lemma per command: its word is its row of the opcode table, whatever its operands. -/

namespace Sys2Proof.Laws.TableRow

/-- The command's word has the fixed bits of the table row with its mnemonic (opcode_table.json). -/
def Statement (i : Instr) : Prop := ∃ r ∈ opcodeTable, r.mnemonic = i.mnemonic ∧ r.matches (encode i) = true

theorem reset (c : CtxIdx) : Statement (.reset c) := by
  refine ⟨opcodeTable[0], by simp [opcodeTable], rfl, ?_⟩
  simp only [Row.matches, encode, beq_iff_eq]
  apply BitVec.eq_of_getLsbD_eq
  intro k hk
  simp only [BitVec.getLsbD_and, BitVec.getLsbD_or, place_getLsbD]
  interval_cases k <;> simp [opcodeTable]

theorem clone (d s : CtxIdx) : Statement (.clone d s) := by
  refine ⟨opcodeTable[1], by simp [opcodeTable], rfl, ?_⟩
  simp only [Row.matches, encode, beq_iff_eq]
  apply BitVec.eq_of_getLsbD_eq
  intro k hk
  simp only [BitVec.getLsbD_and, BitVec.getLsbD_or, place_getLsbD]
  interval_cases k <;> simp [opcodeTable]

theorem absorb (c : CtxIdx) (b : BitVec 7) : Statement (.absorb c b) := by
  refine ⟨opcodeTable[2], by simp [opcodeTable], rfl, ?_⟩
  simp only [Row.matches, encode, beq_iff_eq]
  apply BitVec.eq_of_getLsbD_eq
  intro k hk
  simp only [BitVec.getLsbD_and, BitVec.getLsbD_or, place_getLsbD]
  interval_cases k <;> simp [opcodeTable]

theorem squeeze (c : CtxIdx) (b : BitVec 7) : Statement (.squeeze c b) := by
  refine ⟨opcodeTable[3], by simp [opcodeTable], rfl, ?_⟩
  simp only [Row.matches, encode, beq_iff_eq]
  apply BitVec.eq_of_getLsbD_eq
  intro k hk
  simp only [BitVec.getLsbD_and, BitVec.getLsbD_or, place_getLsbD]
  interval_cases k <;> simp [opcodeTable]

theorem permute (c : CtxIdx) : Statement (.permute c) := by
  refine ⟨opcodeTable[4], by simp [opcodeTable], rfl, ?_⟩
  simp only [Row.matches, encode, beq_iff_eq]
  apply BitVec.eq_of_getLsbD_eq
  intro k hk
  simp only [BitVec.getLsbD_and, BitVec.getLsbD_or, place_getLsbD]
  interval_cases k <;> simp [opcodeTable]

theorem encode (c : CtxIdx) (i : BitVec 10) (j : BitVec 6) (v : Byte) : Statement (.encode c i j v) := by
  refine ⟨opcodeTable[5], by simp [opcodeTable], rfl, ?_⟩
  simp only [Row.matches, Sys2Proof.encode, beq_iff_eq]
  apply BitVec.eq_of_getLsbD_eq
  intro k hk
  simp only [BitVec.getLsbD_and, BitVec.getLsbD_or, place_getLsbD]
  interval_cases k <;> simp [opcodeTable]

theorem decode (c : CtxIdx) (i : BitVec 10) (j : BitVec 6) : Statement (.decode c i j) := by
  refine ⟨opcodeTable[6], by simp [opcodeTable], rfl, ?_⟩
  simp only [Row.matches, Sys2Proof.encode, beq_iff_eq]
  apply BitVec.eq_of_getLsbD_eq
  intro k hk
  simp only [BitVec.getLsbD_and, BitVec.getLsbD_or, place_getLsbD]
  interval_cases k <;> simp [opcodeTable]

end Sys2Proof.Laws.TableRow
end

