-- ==== Sys2Proof/Laws/Runs.lean ====
section
/-! SUPPORT. Runs of several steps put together, and the block loops of ABSORB and SQUEEZE cut in two. -/

namespace Sys2Proof.Machine

/-- `m + n` steps of a command are `m` steps and then `n`. -/
theorem execTimes_add {m n : Nat} {i : Instr} {s t : State} (h : execTimes m i s = .next t) :
    execTimes (m + n) i s = execTimes n i t := by
  induction m generalizing s with
  | zero => cases h; rw [Nat.zero_add]
  | succ m ih =>
    rw [Nat.succ_add]
    simp only [execTimes] at h ⊢
    cases he : exec i s with
    | next u => rw [he] at h; exact ih h
    | fault r => rw [he] at h; cases h
    | refused r => rw [he] at h; cases h

/-- `m + n` steps of the machine are `m` steps and then `n`. -/
theorem stepTimes_add {m n : Nat} {s t : State} (h : stepTimes m s = .next t) : stepTimes (m + n) s = stepTimes n t := by
  induction m generalizing s with
  | zero => cases h; rw [Nat.zero_add]
  | succ m ih =>
    rw [Nat.succ_add]
    simp only [stepTimes] at h ⊢
    cases he : step s with
    | next u => rw [he] at h; exact ih h
    | fault r => rw [he] at h; cases h
    | refused r => rw [he] at h; cases h

/-- Absorbing `m + n` blocks is absorbing `m` and then `n` from the rest of the stream (43_protocol.md R177). -/
theorem absorbBlocks_add (g : Config) (batch m n : Nat) (vs : List Byte) (x : Context) :
    absorbBlocks g batch (m + n) vs x =
      absorbBlocks g batch n (vs.drop (m * (batch * blockSize))) (absorbBlocks g batch m vs x) := by
  induction m generalizing vs x with
  | zero => simp [absorbBlocks]
  | succ m ih =>
    rw [Nat.succ_add]
    simp only [absorbBlocks, ih, List.drop_drop, Nat.succ_mul]
    rw [Nat.add_comm (batch * blockSize)]

/-- Squeezing `m + n` blocks is squeezing `m` and then `n` (43_protocol.md R183). -/
theorem squeezeBlocks_add (g : Config) (batch m n : Nat) (x : Context) :
    squeezeBlocks g batch (m + n) x =
      ((squeezeBlocks g batch n (squeezeBlocks g batch m x).1).1,
        (squeezeBlocks g batch m x).2 ++ (squeezeBlocks g batch n (squeezeBlocks g batch m x).1).2) := by
  induction m generalizing x with
  | zero => simp [squeezeBlocks]
  | succ m ih =>
    rw [Nat.succ_add]
    simp only [squeezeBlocks, ih, List.append_assoc]

/-- The context that squeezing leaves does not depend on the batch size (43_protocol.md R181). -/
theorem squeezeBlocks_ctx (g : Config) (batch batch' n : Nat) (x : Context) :
    (squeezeBlocks g batch n x).1 = (squeezeBlocks g batch' n x).1 := by
  induction n generalizing x with
  | zero => rfl
  | succ n ih => exact ih _

end Sys2Proof.Machine
end

