-- ==== Sys2Proof/Machine/Assembler.lean ====
section
/-! DEFINITION. The assembler's host accesses and pseudo-instructions (30_encoding.md R99, R100), each a list of accesses. A polling
loop is a list of reads, as many as the caller says it takes (log entry 28). -/

namespace Sys2Proof.Machine

/-- `WR off, v`. -/
def asmWr (off : Nat) (v : Word) : HostInput := .write off 4 v

/-- `RD off`. -/
def asmRd (off : Nat) : HostInput := .read off 4

/-- A command line: `WR 0x00, <its word>`. -/
def asmCommand (i : Instr) : HostInput := asmWr 0x00 (encode i)

/-- `LEN L`. -/
def asmLen (l : Word) : HostInput := asmWr 0x04 l

/-- `PUSH v`. -/
def asmPush (v : Byte) : HostInput := asmWr 0x10 (v.setWidth 32)

/-- `POP`. -/
def asmPop : HostInput := asmRd 0x14

/-- `WAIT`, taking `polls` reads of STATUS. -/
def asmWait (polls : Nat) : List HostInput := List.replicate polls (asmRd 0x08)

/-- `n` reads of FIFO_STATUS, the poll before a PUSH or a POP. -/
def asmPollFifo (n : Nat) : List HostInput := List.replicate n (asmRd 0x18)

/-- `ABSORBN c, L, rows`: the rows' digits in stream order, `fifoPolls` reads before each PUSH, `polls` in the WAIT. -/
def asmAbsorbN (c : CtxIdx) (batch : BitVec 7) (l : Word) (stream : List Byte) (fifoPolls polls : Nat) : List HostInput :=
  [asmLen l, asmCommand (.absorb c batch)] ++ (stream.flatMap fun v => asmPollFifo fifoPolls ++ [asmPush v]) ++ asmWait polls

/-- `SQUEEZEN c, B, L`: B·L POPs, `fifoPolls` reads before each, `polls` in the WAIT. -/
def asmSqueezeN (c : CtxIdx) (batch : BitVec 7) (l : Word) (fifoPolls polls : Nat) : List HostInput :=
  [asmLen l, asmCommand (.squeeze c batch)]
    ++ (List.replicate (batch.toNat * l.toNat) (asmPollFifo fifoPolls ++ [asmPop])).flatten ++ asmWait polls

/-- `HASH c, rows, Lin, Lout`. -/
def asmHash (c : CtxIdx) (batch : BitVec 7) (lin lout : Word) (stream : List Byte) (fifoPolls polls : Nat) : List HostInput :=
  [asmCommand (.reset c)] ++ asmWait polls ++ asmAbsorbN c batch lin stream fifoPolls polls
    ++ asmSqueezeN c batch lout fifoPolls polls

end Sys2Proof.Machine
end

