-- ==== Sys2Proof/Tests/Slice0.lean ====
section
/-! SUPPORT. Tests: small theorems on one step each, their expected results taken from spec/95_test_vectors.md and the rules, then one
witness per statement with hypotheses. -/

namespace Sys2Proof.Tests

open Sys2Proof.Machine

/-- A field of the next state; `none` at a fault or a refusal. -/
def after {α : Type} (o : Host.Outcome State Fault Refusal) (f : State → α) : Option α :=
  match o with
  | .next t => some (f t)
  | .fault _ => none
  | .refused _ => none

/-- The reset state with command i running at position p, LEN latched as 243. -/
def busy (i : Instr) (p : Pos) : State := { State.reset with run := some { cmd := i, len := 243#32, pos := p } }

/-- The reset state with LEN = l. -/
def withLen (l : Word) : State := { State.reset with len := l }

/-- The reset state with context 0 Squeezing and LEN = l. -/
def squeezed (l : Word) : State := (withLen l).setCtx 0 (Context.zero.setDir .squeezing)

/-- STATUS after a write of w to CMD. -/
def statusAfter (s : State) (w : Word) : Option Word := after (hostWrite s 0x00 4 w) statusWord

/-! Well-formedness refuses an ill-formed term for each of its checks. -/

theorem test_wf_reset_context : (Instr.reset 2).wellFormed Config.reference = false := by decide
theorem test_wf_clone_destination : (Instr.clone 2 0).wellFormed Config.reference = false := by decide
theorem test_wf_clone_source : (Instr.clone 0 2).wellFormed Config.reference = false := by decide
theorem test_wf_absorb_batch_zero : (Instr.absorb 0 0).wellFormed Config.reference = false := by decide
theorem test_wf_squeeze_batch_65 : (Instr.squeeze 0 65).wellFormed Config.reference = false := by decide
theorem test_wf_permute_context : (Instr.permute 15).wellFormed Config.reference = false := by decide
theorem test_wf_encode_cell_729 : (Instr.encode 0 729 0 1).wellFormed Config.reference = false := by decide
theorem test_wf_decode_lane_32_of_32 :
    (Instr.decode 0 0 32).wellFormed { Config.reference with width := .w32 } = false := by decide
theorem test_wf_accepts :
    (Instr.encode 1 728 63 1).wellFormed Config.reference = true ∧ (Instr.absorb 1 64).wellFormed Config.reference = true := by
  decide

/-! Decoding: words written out bit by bit from the patterns of 30_encoding.md R92 to R94, every field a different value. -/

/-- RESET: 00000000 00000000 00000000 cccc0001, c = 1010. -/
theorem test_decode_reset : decode 0b00000000000000000000000010100001#32 = .ok (.reset 10) := by decide
/-- CLONE: 00000000 00000000 0000ssss cccc0010, s = 0110, c = 1001. -/
theorem test_decode_clone : decode 0b00000000000000000000011010010010#32 = .ok (.clone 9 6) := by decide
/-- ABSORB: 00000000 00000000 0bbbbbbb cccc0011, b = 1010011, c = 0101. -/
theorem test_decode_absorb : decode 0b00000000000000000101001101010011#32 = .ok (.absorb 5 83) := by decide
/-- SQUEEZE: 00000000 00000000 0bbbbbbb cccc0100, b = 0000001, c = 1111. -/
theorem test_decode_squeeze : decode 0b00000000000000000000000111110100#32 = .ok (.squeeze 15 1) := by decide
/-- PERMUTE: 00000000 00000000 00000000 cccc0101, c = 0011. -/
theorem test_decode_permute : decode 0b00000000000000000000000000110101#32 = .ok (.permute 3) := by decide
/-- ENCODE: dddddddd jjjjjjii iiiiiiii cccc0110, d = 11111111, j = 100001, i = 1011011000, c = 0001. -/
theorem test_decode_encode : decode 0b11111111100001101101100000010110#32 = .ok (.encode 1 728 33 0xFF) := by decide
/-- DECODE: 00000000 jjjjjjii iiiiiiii cccc0111, j = 000011, i = 0000000101, c = 0000. -/
theorem test_decode_decode : decode 0b00000000000011000000010100000111#32 = .ok (.decode 0 5 3) := by decide

/-- R101: three worked words, encoded. -/
theorem test_encode_worked :
    encode (.clone 0 1) = 0x00000102#32 ∧ encode (.absorb 1 64) = 0x00004013#32 ∧ encode (.encode 0 5 3 0xFF) = 0xFF0C0506#32 := by
  decide

/-- R97: OP 0 and OP 15 are reserved. -/
theorem test_decode_reserved_op :
    decode 0x00000000#32 = .error (.reservedOp 0) ∧ decode 0x0000000F#32 = .error (.reservedOp 15) := by decide
/-- R96 and V-ER-8, V-ER-13: a must-be-zero bit. -/
theorem test_decode_reserved_bits :
    decode 0x00000101#32 = .error (.reservedBits 1) ∧ decode 0x00008003#32 = .error (.reservedBits 3) ∧
      decode 0x01000007#32 = .error (.reservedBits 7) := by decide

/-- The table's bare patterns decode to their commands. -/
theorem test_decode_table_words :
    decodeTableWord 32 0x00000001 = some (.reset 0) ∧ decodeTableWord 32 0x00000002 = some (.clone 0 0) ∧
      decodeTableWord 32 0x00000003 = some (.absorb 0 0) ∧ decodeTableWord 32 0x00000004 = some (.squeeze 0 0) ∧
      decodeTableWord 32 0x00000005 = some (.permute 0) ∧ decodeTableWord 32 0x00000006 = some (.encode 0 0 0 0) ∧
      decodeTableWord 32 0x00000007 = some (.decode 0 0 0) := by decide

/-! The first step after reset runs the fetched command: it issues, or ends with the code its check gives. -/

theorem test_fetch_reset : (after (step (State.reset.withFetchWord 32 0x00000001)) fun t => t.run.map fun r => r.cmd) =
    some (some (.reset 0)) := by decide
theorem test_fetch_decode : (after (step (State.reset.withFetchWord 32 0x000C0507)) statusWord) = some 0x00000001#32 := by decide
/-- V-ER-1 with LEN = 0: a zero batch. -/
theorem test_fetch_absorb_zero_batch :
    (after (step (State.reset.withFetchWord 32 0x00000003)) statusWord) = some 0x00000100#32 := by decide
/-- 43_protocol.md R176: LEN = 0 issues and has only `complete()` to run. -/
theorem test_fetch_absorb_zero_length :
    (after (step (State.reset.withFetchWord 32 0x00000103)) fun t => t.run.map fun r => r.pos) = some (some .finish) := by decide

/-! The check table (V-ER-1 to V-ER-17). -/

theorem test_er2_batch_65 : statusAfter (withLen 243) 0x00004103#32 = some 0x00000100#32 := by decide
theorem test_er3_absorb_length : statusAfter (withLen 242) 0x00000103#32 = some 0x00000200#32 := by decide
theorem test_er4_squeeze_length : statusAfter (withLen 244) 0x00000104#32 = some 0x00000300#32 := by decide
theorem test_er6_reserved_op : statusAfter State.reset 0x00000000#32 = some 0x00000400#32 := by decide
theorem test_er9_permute_context : statusAfter State.reset 0x00000025#32 = some 0x00000500#32 := by decide
theorem test_er10_fatal : statusAfter (squeezed 243) 0x00000103#32 = some 0x00000802#32 := by decide
theorem test_er11_batch_before_direction : statusAfter (squeezed 243) 0x00000003#32 = some 0x00000100#32 := by decide
theorem test_er12_length_before_direction : statusAfter (squeezed 242) 0x00000103#32 = some 0x00000200#32 := by decide
theorem test_er14_context_before_batch : statusAfter (withLen 243) 0x00000033#32 = some 0x00000500#32 := by decide
theorem test_er16_cell : statusAfter State.reset 0x0002D907#32 = some 0x00000600#32 := by decide
theorem test_er17_lane :
    statusAfter (State.resetOf { Config.reference with width := .w32 }) 0x00800007#32 = some 0x00000700#32 := by decide
/-- V-AS-8: a zero-length ABSORB on a Squeezing context is fatal. -/
theorem test_as8_zero_length_fatal : statusAfter (squeezed 0) 0x00000103#32 = some 0x00000802#32 := by decide
/-- V-ER-18: while halted a CMD write changes nothing. -/
theorem test_er18_halted :
    statusAfter { State.reset with fatal := true, err := .absorbAfterSqueeze } 0x00000001#32 = some 0x00000802#32 := by decide
/-- P5: a dropped command sets OVERRUN; writing 4 clears it. -/
theorem test_p5_overrun :
    statusAfter (busy (.absorb 0 1) (.merge 0 0 0)) 0x00000015#32 = some 0x00000005#32 ∧
      after (hostWrite { busy (.absorb 0 1) (.merge 0 0 0) with overrun := true } 0x08 4 0x04#32) statusWord =
        some 0x00000001#32 := by decide

/-! The codec (V-CD-1 to V-CD-4). -/

theorem test_cd1_norm :
    normOf 0x00 = .zero ∧ normOf 0x01 = .pos ∧ normOf 0x02 = .zero ∧ normOf 0x7F = .zero ∧ normOf 0x80 = .zero ∧ normOf 0xFE = .zero ∧
      normOf 0xFF = .neg := by decide
theorem test_cd2_words :
    sext32 (codeOf .pos) = 0x00000001#32 ∧ sext32 (codeOf .zero) = 0x00000000#32 ∧ sext32 (codeOf .neg) = 0xFFFFFFFF#32 := by decide
theorem test_cd3_enc :
    enc ⟨0x1#64, 0x0#64⟩ 0 .neg = ⟨0x0#64, 0x1#64⟩ ∧
      enc ⟨0xFFFFFFFFFFFFFFFF#64, 0x0#64⟩ 5 .zero = ⟨0xFFFFFFFFFFFFFFDF#64, 0x0#64⟩ ∧
      enc ⟨0x0#64, 0xFFFFFFFFFFFFFFFF#64⟩ 63 .pos = ⟨0x8000000000000000#64, 0x7FFFFFFFFFFFFFFF#64⟩ ∧
      enc ⟨0xF0#64, 0x0F#64⟩ 2 .pos = ⟨0xF4#64, 0x0B#64⟩ := by decide
theorem test_cd4_both_planes : dec ⟨0x1#64, 0x1#64⟩ 0 = .pos := by decide

/-! ENCODE and DECODE (V-CD-5): the micro-step. -/

theorem test_cd5_encode :
    (after (exec (.encode 0 5 3 0xFF) (busy (.encode 0 5 3 0xFF) .whole)) fun t => ((t.ctx 0).cell 5, t.busy)) =
      some (⟨0x0#64, 0x8#64⟩, false) := by decide +kernel
theorem test_cd5_decode :
    (after (exec (.decode 0 5 3) ((busy (.decode 0 5 3) .whole).setCtx 0 (Context.zero.putDigit 5 3 .neg))) fun t => t.result) =
      some 0xFFFFFFFF#32 := by decide +kernel

/-! The S-box (V-SB-2, V-SB-3) and the table (42_permutation.md R152, first and last lines). -/

theorem test_sb2_nine_pairs :
    sbox Config.reference ⟨0x1C0#64, 0x007#64⟩ ⟨0x124#64, 0x049#64⟩ = ⟨0x23#64, 0xFFFFFFFFFFFFFE54#64⟩ := by decide
theorem test_sb3_broken_inputs :
    sbox Config.reference ⟨0xFFFFFFFFFFFFFFFF#64, 0xFFFFFFFFFFFFFFFF#64⟩ ⟨0xFFFFFFFFFFFFFFFF#64, 0xFFFFFFFFFFFFFFFF#64⟩ =
      ⟨0x0#64, 0xFFFFFFFFFFFFFFFF#64⟩ := by decide
theorem test_table_first_line :
    ([0, 1, 2, 3, 4, 13, 14].map (tableEntry Config.reference)) = [0, 364, 728, 363, 727, 358, 722] := by decide +kernel
theorem test_table_last_line :
    ([720, 721, 722, 727, 728, 729].map (tableEntry Config.reference)) = [369, 4, 368, 1, 365, 0] := by decide +kernel

/-- V-RD-2: after one round from a single +1 in cell 0, cell 728 is +1 in lane 0 and -1 elsewhere, cell 0 is 0 in lane 0. -/
theorem test_rd2_one_round :
    (roundOf Config.reference (Context.zero.putDigit 0 0 .pos).cells).cellAt 728 = ⟨0x1#64, 0xFFFFFFFFFFFFFFFE#64⟩ ∧
      (roundOf Config.reference (Context.zero.putDigit 0 0 .pos).cells).cellAt 0 = ⟨0x0#64, 0xFFFFFFFFFFFFFFFE#64⟩ := by
  decide +kernel

/-! ABSORB, SQUEEZE, RESET, CLONE, PERMUTE: one micro-step each. -/

/-- 43_protocol.md R172: the oldest entry goes to lane 1 of cell 242, and the next lane is out of the batch, so the transform follows. -/
theorem test_absorb_merge_last :
    (after (exec (.absorb 0 2) { busy (.absorb 0 2) (.merge 0 1 242) with inFifo := [0x01, 0xFF] })
      fun t => ((t.ctx 0).cell 242, t.inFifo, t.run.map fun r => r.pos)) =
      some (⟨0x2#64, 0x0#64⟩, [0xFF#8], some (.transform 0)) := by decide +kernel
/-- 43_protocol.md R173: from the end of lane 0 to the start of lane 1. -/
theorem test_absorb_next_lane :
    (after (exec (.absorb 0 2) { busy (.absorb 0 2) (.merge 0 0 242) with inFifo := [0x00] })
      fun t => t.run.map fun r => r.pos) = some (some (.merge 0 1 0)) := by decide
/-- 43_protocol.md R178: the first block of an Absorbing context goes straight to the direction write. -/
theorem test_squeeze_first_block :
    (after (exec (.squeeze 0 1) (busy (.squeeze 0 1) (.blockStart 0)))
      fun t => ((t.ctx 0).dir, t.run.map fun r => r.pos)) = some (.squeezing, some (.emit 0 0 0)) := by decide
/-- 43_protocol.md R178: the last digit of the only block. -/
theorem test_squeeze_emit_last :
    (after (exec (.squeeze 0 1) ((busy (.squeeze 0 1) (.emit 0 0 242)).setCtx 0 (Context.zero.putDigit 242 0 .neg)))
      fun t => (t.outFifo, t.run.map fun r => r.pos)) = some ([0xFF#8], some .finish) := by decide +kernel
/-- 41_state_ops.md R130. -/
theorem test_reset_zeroes :
    (after (exec (.reset 0) ((busy (.reset 0) .whole).setCtx 0 ((Context.zero.putDigit 7 0 .pos).setDir .squeezing)))
      fun t => ((t.ctx 0).cell 7, (t.ctx 0).dir, t.busy)) = some (⟨0x0#64, 0x0#64⟩, .absorbing, false) := by decide +kernel
/-- V-ST-3: CLONE copies the direction. -/
theorem test_clone_copies :
    (after (exec (.clone 1 0) ((busy (.clone 1 0) .whole).setCtx 0 ((Context.zero.putDigit 7 0 .pos).setDir .squeezing)))
      fun t => ((t.ctx 1).cell 7, dirsWord t)) = some (⟨0x1#64, 0x0#64⟩, 0x00000003#32) := by decide +kernel
/-- 42_permutation.md R150: after the transform, `complete()`. -/
theorem test_permute_finish :
    (after (exec (.permute 0) (busy (.permute 0) .finish)) fun t => (statusWord t, t.busy)) = some (0x00000000#32, false) := by decide

/-! Host accesses (V-ER-19, 10_state.md R38, R42). -/

theorem test_er19_empty_pop :
    (after (hostRead State.reset 0x14 4) fun t => (t.seen, statusWord t)) = some ([0x00000000#32], 0x00000010#32) := by decide
theorem test_er19_full_push :
    (after (hostWrite { State.reset with cfg := { Config.reference with ififoDepth := 1 }, inFifo := [0x01] } 0x10 4 0x02#32)
      fun t => (t.inFifo, statusWord t)) = some ([0x01#8], 0x00000008#32) := by decide
theorem test_config_word : (after (hostRead State.reset 0x1C 4) fun t => t.seen) = some [0x00025140#32] := by decide
theorem test_fifo_cfg_word : (after (hostRead State.reset 0x24 4) fun t => t.seen) = some [0x01000100#32] := by decide
theorem test_fifo_status_word :
    (after (hostRead { State.reset with inFifo := [0x01, 0x02], outFifo := [0x00] } 0x18 4) fun t => t.seen) =
      some [0x00010002#32] := by decide
theorem test_bytes_little_endian : wordOfBytes 0x06 0x05 0x0C 0xFF = 0xFF0C0506#32 := by decide
/-- 30_encoding.md R99, R101: `ENCODE 0, 0, 0, +1`. -/
theorem test_assembler_line : asmCommand (.encode 0 0 0 (codeOf .pos)) = .write 0x00 4 0x01000006#32 := by decide

/-! Witnesses: a state and operands that meet a statement's hypotheses together. -/

/-- IssueFollowsCheckTable, the Idle clauses of CommandRegister and of every command, StepRunsDecodedCommand. -/
theorem test_witness_idle :
    State.reset.fatal = false ∧ State.reset.run = none ∧ (0 : CtxIdx).toNat < State.reset.cfg.ctxCount ∧
      State.reset.cfg.ctxCount ≤ (2 : CtxIdx).toNat ∧ (728 : BitVec 10).toNat < 729 ∧ 729 ≤ (729 : BitVec 10).toNat ∧
      (63 : BitVec 6).toNat < State.reset.cfg.lanes := by decide
theorem test_witness_lane_past_width :
    (State.resetOf { Config.reference with width := .w32 }).cfg.lanes ≤ (32 : BitVec 6).toNat := by decide
/-- ReservedBitsIllegal, in ResetCommand, CloneCommand, DecodeCommand, PermuteCommand. -/
theorem test_witness_reserved_bits :
    (fieldOp 0x00000101#32 = 1#4 ∧ 0x00000101#32 &&& 0xFFFFFF00#32 ≠ 0#32) ∧
      (fieldOp 0x00001002#32 = 2#4 ∧ 0x00001002#32 &&& 0xFFFFF000#32 ≠ 0#32) ∧
      (fieldOp 0x80000005#32 = 5#4 ∧ 0x80000005#32 &&& 0xFFFFFF00#32 ≠ 0#32) ∧
      (fieldOp 0x01000007#32 = 7#4 ∧ 0x01000007#32 &&& 0xFF000000#32 ≠ 0#32) := by decide
/-- CommandRegister's other clauses. -/
theorem test_witness_command_register :
    (busy (.reset 0) .whole).fatal = false ∧ (busy (.reset 0) .whole).run ≠ none ∧
      decode 0x00000001#32 = .ok (.reset 0) ∧ { State.reset with fatal := true }.fatal = true := by decide
/-- ResetCommand, CloneCommand, EncodeCommand, DecodeCommand at Busy. -/
theorem test_witness_whole :
    (busy (.clone 1 0) .whole).fatal = false ∧
      (busy (.clone 1 0) .whole).run = some { cmd := .clone 1 0, len := 243#32, pos := .whole } := by decide
/-- EncodeCommand's lane clause: another lane of the same cell, and the same lane of another cell. -/
theorem test_witness_encode_frame : ((5 : Nat) ≠ (5 : BitVec 10).toNat ∨ (2 : Nat) ≠ (3 : BitVec 6).toNat) ∧
    ((6 : Nat) ≠ (5 : BitVec 10).toNat ∨ (3 : Nat) ≠ (3 : BitVec 6).toNat) := by decide
/-- PermuteCommand at Busy. -/
theorem test_witness_permute :
    (busy (.permute 0) (.transform 0)).run = some { cmd := .permute 0, len := 243#32, pos := .transform 0 } ∧
      (busy (.permute 0) .finish).run = some { cmd := .permute 0, len := 243#32, pos := .finish } := by decide
/-- AbsorbMergeStep, at the last digit of a lane. -/
theorem test_witness_absorb_merge :
    let s : State := { busy (.absorb 0 2) (.merge 0 0 242) with inFifo := [0x01] }
    s.fatal = false ∧ s.run = some { cmd := .absorb 0 2, len := 243#32, pos := .merge 0 0 242 } ∧ s.inFifo = 0x01#8 :: [] ∧
      242 < 243 := by decide
/-- AbsorbTransformStep, ProtocolFinalStep. -/
theorem test_witness_absorb_transform :
    (busy (.absorb 0 2) (.transform 0)).fatal = false ∧
      (busy (.absorb 0 2) (.transform 0)).run = some { cmd := .absorb 0 2, len := 243#32, pos := .transform 0 } ∧
      (busy (.squeeze 0 2) .finish).run = some { cmd := .squeeze 0 2, len := 243#32, pos := .finish } := by decide
/-- SqueezeBlockSteps, all three ways in. -/
theorem test_witness_squeeze_block :
    (((busy (.squeeze 0 1) (.blockStart 1)).setCtx 0 (Context.zero.setDir .squeezing)).ctx 0).dir = .squeezing ∧
      ((busy (.squeeze 0 1) (.blockStart 0)).ctx 0).dir = .absorbing ∧
      (busy (.squeeze 0 1) (.direction 1)).run = some { cmd := .squeeze 0 1, len := 243#32, pos := .direction 1 } := by decide
/-- SqueezeEmitStep. -/
theorem test_witness_squeeze_emit :
    let s := busy (.squeeze 0 1) (.emit 0 0 242)
    s.fatal = false ∧ s.run = some { cmd := .squeeze 0 1, len := 243#32, pos := .emit 0 0 242 } ∧
      s.outFifo.length < s.cfg.ofifoDepth := by decide
/-- StalledCommandsWait. -/
theorem test_witness_stall :
    let s := busy (.absorb 0 1) (.merge 0 0 0)
    let u : State :=
      { busy (.squeeze 0 1) (.emit 0 0 0) with cfg := { Config.reference with ofifoDepth := 1 }, outFifo := [0x00] }
    s.fatal = false ∧ s.inFifo = [] ∧ s.inputs = [] ∧ u.fatal = false ∧ u.cfg.ofifoDepth ≤ u.outFifo.length := by decide
/-- CommandsKeepOutside, CommandsWriteOnlyTheirRegisters, ResultRegister: a DECODE that answers a next state and changes RESULT. -/
theorem test_witness_exec_next :
    ∃ t, exec (.decode 0 5 3) ((busy (.decode 0 5 3) .whole).setCtx 0 (Context.zero.putDigit 5 3 .pos)) = .next t ∧
      t.result ≠ ((busy (.decode 0 5 3) .whole).setCtx 0 (Context.zero.putDigit 5 3 .pos)).result :=
  ⟨_, exec_busy rfl rfl, by decide +kernel⟩
/-- CommandsKeepOtherContexts. -/
theorem test_witness_other_context :
    (∃ t, exec (.reset 0) (busy (.reset 0) .whole) = .next t) ∧ commandTarget (.reset 0) ≠ some 1 :=
  ⟨⟨_, exec_busy rfl rfl⟩, by decide⟩
/-- MergeWritesTheBatch, BatchHashIsPerLaneHash. -/
theorem test_witness_batch : (64 : Nat) ≤ Config.reference.lanes ∧ (63 : Nat) < 64 ∧ (242 : Nat) < 243 := by decide
/-- DirectionChangesOnlyAsListed: a SQUEEZE step that changes DIR. -/
theorem test_witness_direction :
    (after (step (busy (.squeeze 0 1) (.blockStart 0))) fun t => decide ((t.ctx 0).dir = .squeezing)) = some true ∧
      ((busy (.squeeze 0 1) (.blockStart 0)).ctx 0).dir = .absorbing := by decide
/-- CommandRegister's clause of a word that is no command: a reserved opcode, and a reserved bit. -/
theorem test_witness_illegal_word :
    decode 0x00000000#32 = .error (.reservedOp 0#4) ∧ decode 0x00000101#32 = .error (.reservedBits 1#4) := by decide
/-- PermuteCommand's clause of the zero state. -/
theorem test_witness_permute_zero (i : Nat) : ((busy (.permute 0) (.transform 0)).ctx 0).cell i = { p := 0#64, n := 0#64 } := by
  rw [show (busy (.permute 0) (.transform 0)).ctx 0 = Context.zero from rfl, Context.cell_zero]
  rfl
/-- HardwareResetValues' clause of a halted block: the step that clears FATAL. -/
theorem test_witness_reset_clears_fatal :
    let s : State := { State.reset with fatal := true, err := .absorbAfterSqueeze, inputs := [.hardReset] }
    s.fatal = true ∧ (after (step s) fun t => t.fatal) = some false ∧ s.inputs.head? = some .hardReset := by decide
/-- HaltedBlockIsFrozen, on a halted state whose step is a host access. -/
theorem test_witness_halted :
    let s : State := { State.reset with fatal := true, err := .absorbAfterSqueeze, inputs := [.write 0x04 4 7#32] }
    s.fatal = true ∧ (after (step s) fun t => (t.fatal, t.len)) = some (true, 0#32) := by decide
/-- InputFifoPush, OutputFifoPop. -/
theorem test_witness_fifos :
    let s : State := { State.reset with inFifo := [0x01], outFifo := [0xFF] }
    let u : State := { s with cfg := { Config.reference with ififoDepth := 1 } }
    s.fatal = false ∧ s.inFifo.length < s.cfg.ififoDepth ∧ u.cfg.ififoDepth ≤ u.inFifo.length ∧ s.outFifo = 0xFF#8 :: [] ∧
      State.reset.outFifo = [] := by decide
/-- FifoCountRegister, ParameterRegisters, DirectionsRegister, ResetMeetsInvariant. -/
theorem test_witness_valid : Config.reference.Valid ∧ State.reset.FifosBounded ∧ State.reset.cfg.ctxCount ≤ 2 ∧
    (1 : CtxIdx).toNat < State.reset.cfg.ctxCount := by
  refine ⟨by decide, ?_, by decide, by decide⟩
  exact ⟨Nat.zero_le _, Nat.zero_le _⟩
/-- AccessesWithoutEffect, at the first and the last offset of each clause. -/
theorem test_witness_offsets : (0x0C % 4 = 0 ∧ 0x0C < 64) ∧ (0x28 % 4 = 0 ∧ 0x28 < 64) ∧ (0x3C % 4 = 0 ∧ 0x28 ≤ 0x3C ∧ 0x3C < 64) := by
  decide
/-- AccessesOutsideTheInterfaceStop: a byte access, a misaligned one, the first offset past the window, the last inside it. -/
theorem test_witness_outside : (1 ≠ 4) ∧ (0x02 % 4 ≠ 0) ∧ (0x40 % 4 = 0 ∧ 64 ≤ 0x40) ∧ (0x3C % 4 = 0 ∧ 0x3C < 64) := by decide
/-- StepRunsDecodedCommand. -/
theorem test_witness_step_decodes :
    let s : State := { State.reset with inputs := [.write 0x00 4 0x00000012#32] }
    s.fatal = false ∧ s.run = none ∧ s.inputs = .write 0x00 4 0x00000012#32 :: [] ∧ decode 0x00000012#32 = .ok (.clone 1 0) ∧
      decodeTableWord 32 0x12 = some (.clone 1 0) := by decide
/-- StepIsOneAgentsStep: both agents enabled with a schedule and without one, each alone, and neither. -/
theorem test_witness_step_agents :
    let s : State := { busy (.permute 0) (.transform 0) with inputs := [.read 0x08 4], turns := [.core, .host] }
    s.coreEnabled = true ∧ s.inputs ≠ [] ∧ s.turns = .core :: [.host] ∧
      { s with turns := [] }.coreEnabled = true ∧ { s with turns := [] }.inputs = .read 0x08 4 :: [] ∧
      (busy (.permute 0) (.transform 0)).coreEnabled = true ∧ (busy (.permute 0) (.transform 0)).inputs = [] ∧
      State.reset.coreEnabled = false ∧ State.reset.inputs = [] := by decide
/-- LanesEvolveIndependently: two states that differ in lane 1 and agree on lane 0. -/
theorem test_witness_lanes (i : Nat) :
    SameLane 0 ((State.reset.ctx 0).cell i) (((State.reset.setCtx 0 (Context.zero.putDigit 5 1 .pos)).ctx 0).cell i) := by
  rw [State.ctx_setCtx_self, Context.cell_putDigit, show State.reset.ctx 0 = Context.zero from rfl]
  split <;> simp only [Context.cell_zero] <;> exact ⟨by decide, by decide⟩
/-- AbsorbRunsToCompletion. -/
theorem test_witness_absorb_run :
    let s : State := { withLen 243#32 with inFifo := List.replicate 243 0x01#8 }
    s.fatal = false ∧ s.run = none ∧ (0 : CtxIdx).toNat < s.cfg.ctxCount ∧ 1 ≤ (1 : BitVec 7).toNat ∧
      (1 : BitVec 7).toNat ≤ s.cfg.lanes ∧ s.len.toNat % 243 = 0 ∧ (s.ctx 0).dir = .absorbing ∧
      (1 : BitVec 7).toNat * s.len.toNat ≤ s.inFifo.length := by decide +kernel
/-- SqueezeRunsToCompletion. -/
theorem test_witness_squeeze_run :
    let s := squeezed 243#32
    s.fatal = false ∧ s.run = none ∧ (0 : CtxIdx).toNat < s.cfg.ctxCount ∧ 1 ≤ (1 : BitVec 7).toNat ∧
      (1 : BitVec 7).toNat ≤ s.cfg.lanes ∧ s.len.toNat % 243 = 0 ∧
      s.outFifo.length + (1 : BitVec 7).toNat * s.len.toNat ≤ s.cfg.ofifoDepth := by decide

/-- BlocksSplit, ABSORB and SQUEEZE of 243 and then 0 against 243. -/
theorem test_witness_split :
    let s : State := { State.reset with inFifo := List.replicate 243 0x01#8 }
    let n : BitVec 7 := 1
    s.fatal = false ∧ s.run = none ∧ (0 : CtxIdx).toNat < s.cfg.ctxCount ∧ 1 ≤ n.toNat ∧ n.toNat ≤ s.cfg.lanes ∧
      243 % 243 = 0 ∧ 0 % 243 = 0 ∧ 243 + 0 < 2 ^ 32 ∧ (s.ctx 0).dir = .absorbing ∧ n.toNat * (243 + 0) ≤ s.inFifo.length ∧
      s.outFifo.length + n.toNat * 243 + n.toNat * 0 ≤ s.cfg.ofifoDepth ∧
      s.outFifo.length + n.toNat * (243 + 0) ≤ s.cfg.ofifoDepth := by decide +kernel
/-- AbsorbTakesInputAsItComes: nothing queued, everything pushed. -/
theorem test_witness_absorb_pushed :
    let vs := List.replicate 243 0x01#8
    let s : State :=
      { withLen 243#32 with inputs := .write 0x00 4 (encode (.absorb 0 1)) :: vs.map (fun v => .write 0x10 4 (v.setWidth 32)) }
    s.fatal = false ∧ s.run = none ∧ (s.ctx 0).dir = .absorbing ∧ s.len.toNat % 243 = 0 ∧
      (1 : BitVec 7).toNat * s.len.toNat ≤ s.inFifo.length + vs.length ∧ s.inFifo.length + vs.length ≤ s.cfg.ififoDepth := by
  decide +kernel
/-- SqueezeWaitsForRoom: 100 entries queued, so that the output has room only as the host's 100 reads go on. -/
theorem test_witness_squeeze_popped :
    let s : State :=
      { withLen 243#32 with
        outFifo := List.replicate 100 0x01#8
        inputs := .write 0x00 4 (encode (.squeeze 0 1)) :: List.replicate 100 (.read 0x14 4) }
    s.fatal = false ∧ s.run = none ∧ s.len.toNat % 243 = 0 ∧ 100 ≤ s.outFifo.length ∧
      s.outFifo.length + (1 : BitVec 7).toNat * s.len.toNat ≤ s.cfg.ofifoDepth + 100 ∧
      s.cfg.ofifoDepth < s.outFifo.length + (1 : BitVec 7).toNat * s.len.toNat := by decide +kernel
/-- ResultRegister's step clause: both ways a step changes RESULT. -/
theorem test_witness_result_step :
    (after (step ((busy (.decode 0 5 3) .whole).setCtx 0 (Context.zero.putDigit 5 3 .pos))) fun t => t.result) =
      some 0x00000001#32 ∧
    (after (step { State.reset with result := 1#32, inputs := [.hardReset] }) fun t => t.result) = some 0#32 := by
  decide +kernel
/-- RunningCommandsCannotFail's ending clause. -/
theorem test_witness_ends :
    let s : State := { busy (.permute 0) .finish with err := .invalidCell }
    s.run ≠ none ∧ s.fatal = false ∧ (after (exec (.permute 0) s) fun t => (t.busy, t.err)) = some (false, .ok) := by decide

/-- A state in the middle of an ABSORB, one entry queued. -/
def midAbsorb : State := { busy (.absorb 0 1) (.merge 0 0 5) with inFifo := [0x01] }

theorem midAbsorb_ctx (c : CtxIdx) : midAbsorb.ctx c = Context.zero := by
  simp [midAbsorb, busy, State.reset, State.resetOf, State.ctx]

/-- StepKeepsInvariant, StepKeepsExclusivity, ParameterRegisters' step clause: a running state that meets the invariant and has a next
state. -/
theorem test_witness_invariant : midAbsorb.Inv ∧ ∃ t, step midAbsorb = .next t := by
  refine ⟨⟨by decide, ?_, ?_, by unfold State.FifosBounded; decide, ⟨?_, .zero, by decide⟩, ⟨?_, by decide⟩, ?_, ?_⟩,
    _, exec_busy (i := .absorb 0 1) (s := midAbsorb) rfl rfl⟩
  · intro c i
    rw [midAbsorb_ctx, Context.cell_zero]
    exact rfl
  · intro c i
    rw [midAbsorb_ctx, Context.cell_zero]
    exact ⟨by decide, by decide⟩
  · intro v hv
    cases hv
  · intro h
    cases h
  · intro c _
    exact midAbsorb_ctx c
  · intro r hr
    cases hr
    refine ⟨by decide, by decide, ?_, by decide⟩
    rw [midAbsorb_ctx]
    rfl

end Sys2Proof.Tests
end

section
/-! PROOFS. The last micro-step of the protocol commands (43_protocol.md R172, R178; 00_scope.md R17). -/

namespace Sys2Proof.Machine

theorem absorbStep_finish {r : Running} (h : r.pos = .finish) (c : CtxIdx) (n : BitVec 7) (s : State) :
    absorbStep c n s r = s.complete := by
  simp [absorbStep, h]

theorem squeezeStep_finish {r : Running} (h : r.pos = .finish) (c : CtxIdx) (n : BitVec 7) (s : State) :
    squeezeStep c n s r = s.complete := by
  simp [squeezeStep, h]

/-- Settles O29: at Busy a step is the command's micro-step, and at `finish` that is `complete()`. -/
theorem protocolFinalStep : Obligations.ProtocolFinalStep := by
  intro c n s r hfatal hrun hpos
  constructor
  · exact (exec_busy hfatal hrun).trans (congrArg _ (absorbStep_finish hpos c n s))
  · exact (exec_busy hfatal hrun).trans (congrArg _ (squeezeStep_finish hpos c n s))

end Sys2Proof.Machine
end

section
/-! PROOFS. The micro-steps of all commands in one inversion, and what a command leaves alone (10_state.md R23, R24, R33; 20_memory.md R74;
60_exceptions.md R208). -/

namespace Sys2Proof.Machine

/-- What a micro-step of command `i` at the running command `r` can leave: one constructor per kind of micro-step
(10_state.md R41; 40_codec.md R115, R118; 41_state_ops.md R130, R133; 42_permutation.md R150; 43_protocol.md R172, R178). -/
inductive MicroEffect (s : State) (r : Running) : Instr → State → Prop where
  /-- Not enabled, or no position of the command (log entry 25). -/
  | stall (i : Instr) : MicroEffect s r i s
  | finish (i : Instr) : MicroEffect s r i s.complete
  | reset (c : CtxIdx) : MicroEffect s r (.reset c) (s.setCtx c Context.zero).complete
  | clone (d e : CtxIdx) : MicroEffect s r (.clone d e) (s.setCtx d (s.ctx e)).complete
  | encode (c : CtxIdx) (k : BitVec 10) (j : BitVec 6) (v : Byte) :
    MicroEffect s r (.encode c k j v) (s.setCtx c ((s.ctx c).putDigit k.toNat j.toNat (normOf v))).complete
  | decode (c : CtxIdx) (k : BitVec 10) (j : BitVec 6) :
    MicroEffect s r (.decode c k j) { s with result := sext32 (codeOf ((s.ctx c).digit k.toNat j.toNat)) }.complete
  | permute (c : CtxIdx) : MicroEffect s r (.permute c) ((s.transform c).advance .finish)
  | merge (c : CtxIdx) (n : BitVec 7) {b j k : Nat} {v : Byte} {rest : List Byte} (hpos : r.pos = .merge b j k)
      (hfifo : s.inFifo = v :: rest) :
    MicroEffect s r (.absorb c n)
      ({ s.setCtx c ((s.ctx c).putDigit k j (normOf v)) with inFifo := rest }.advance (absorbNext n.toNat b j k))
  | absorbTransform (c : CtxIdx) (n : BitVec 7) {b : Nat} (hpos : r.pos = .transform b) :
    MicroEffect s r (.absorb c n) ((s.transform c).advance (absorbBlock r.len (b + 1)))
  | squeezeTransform (c : CtxIdx) (n : BitVec 7) {b : Nat} (hpos : r.pos = .blockStart b)
      (hdir : (s.ctx c).dir = .squeezing) :
    MicroEffect s r (.squeeze c n) ((s.transform c).advance (.direction b))
  | direction (c : CtxIdx) (n : BitVec 7) {b : Nat} (hpos : r.pos = .direction b ∨ r.pos = .blockStart b) :
    MicroEffect s r (.squeeze c n) (directionWrite c b s)
  | emit (c : CtxIdx) (n : BitVec 7) {b j k : Nat} (hpos : r.pos = .emit b j k) (hroom : s.outHasRoom = true) :
    MicroEffect s r (.squeeze c n)
      ((s.pushOut (codeOf ((s.ctx c).digit k j))).advance (squeezeNext r.len n.toNat b j k))

theorem microStep_effect (i : Instr) (s : State) (r : Running) : MicroEffect s r i (microStep i s r) := by
  cases i with
  | reset c => exact .reset c
  | clone d e => exact .clone d e
  | encode c k j v => exact .encode c k j v
  | decode c k j => exact .decode c k j
  | permute c =>
    rcases permuteStep_cases c s r with ⟨_, he⟩ | ⟨_, he⟩ | he <;> simp only [microStep, he]
    · exact .permute c
    · exact .finish _
    · exact .stall _
  | absorb c n =>
    rcases absorbStep_cases c n s r with ⟨b, j, k, v, rest, hpos, hfifo, he⟩ | ⟨b, hpos, he⟩ | ⟨_, he⟩ | he <;>
      simp only [microStep, he]
    · exact .merge c n hpos hfifo
    · exact .absorbTransform c n hpos
    · exact .finish _
    · exact .stall _
  | squeeze c n =>
    rcases squeezeStep_cases c n s r with
      ⟨b, hpos, hdir, he⟩ | ⟨b, hpos, he⟩ | ⟨b, j, k, hpos, hroom, he⟩ | ⟨_, he⟩ | he <;> simp only [microStep, he]
    · exact .squeezeTransform c n hpos hdir
    · exact .direction c n (hpos.imp_right And.left)
    · exact .emit c n hpos hroom
    · exact .finish _
    · exact .stall _

/-- The inversion of `exec` with its micro-step taken apart: nothing while halted, a failed or a passed issue at Idle, a
micro-step at Busy. -/
theorem exec_effect {i : Instr} {s t : State} (h : exec i s = .next t) :
    (s.fatal = true ∧ t = s) ∨
    (s.fatal = false ∧ s.run = none ∧ ∃ e, t = s.raise e) ∨
    (s.fatal = false ∧ s.run = none ∧ firstFailure (issueChecks i s) = none ∧
      t = { s with run := some { cmd := i, len := s.len, pos := startPos i s.len } }) ∨
    (s.fatal = false ∧ ∃ r, s.run = some r ∧ MicroEffect s r i t) := by
  rcases exec_cases h with h | ⟨hfatal, hrun, e, _, ht⟩ | h | ⟨hfatal, r, hrun, rfl⟩
  · exact .inl h
  · exact .inr (.inl ⟨hfatal, hrun, e, ht⟩)
  · exact .inr (.inr (.inl h))
  · exact .inr (.inr (.inr ⟨hfatal, r, hrun, microStep_effect i s r⟩))

/-! The frames of a micro-step. -/

theorem MicroEffect.sameOutside {s t : State} {r : Running} {i : Instr} (h : MicroEffect s r i t) : SameOutside s t := by
  cases h <;> exact ⟨rfl, rfl, rfl, rfl, rfl, rfl, rfl, rfl, rfl⟩

/-- A micro-step writes no context but its command's. -/
theorem MicroEffect.ctx_other {s t : State} {r : Running} {i : Instr} {d : CtxIdx} (h : MicroEffect s r i t)
    (hd : commandTarget i ≠ some d) : t.ctx d = s.ctx d := by
  have hne {c : CtxIdx} (hc : commandTarget i = some c) : d ≠ c := fun e => hd (e ▸ hc)
  cases h with
  | stall | finish | decode | emit => rfl
  | reset | clone | encode | merge | direction | permute | absorbTransform | squeezeTransform =>
    exact State.ctx_setCtx_other s _ (hne rfl)

/-- Only DECODE writes RESULT, and it ends as it does so. -/
theorem MicroEffect.result {s t : State} {r : Running} {i : Instr} (h : MicroEffect s r i t) :
    t.result = s.result ∨ ∃ c k j, i = .decode c k j ∧ t.err = .ok ∧ t.run = none ∧
      t.result = sext32 (codeOf ((s.ctx c).digit k.toNat j.toNat)) := by
  cases h with
  | decode c k j => exact .inr ⟨c, k, j, rfl, rfl, rfl, rfl⟩
  | _ => exact .inl rfl

/-- Only ABSORB pops input, one entry at most. -/
theorem MicroEffect.inFifo {s t : State} {r : Running} {i : Instr} (h : MicroEffect s r i t) :
    t.inFifo = s.inFifo ∨ (∃ c n, i = .absorb c n) ∧ ∃ v, s.inFifo = v :: t.inFifo := by
  cases h with
  | merge c n _ hfifo => exact .inr ⟨⟨c, n, rfl⟩, _, hfifo⟩
  | _ => exact .inl rfl

/-- Only SQUEEZE pushes output, one digit's code at most, and only where the FIFO has room. -/
theorem MicroEffect.outFifo {s t : State} {r : Running} {i : Instr} (h : MicroEffect s r i t) :
    t.outFifo = s.outFifo ∨
      (∃ c n, i = .squeeze c n) ∧ s.outFifo.length < s.cfg.ofifoDepth ∧ ∃ d, t.outFifo = s.outFifo ++ [codeOf d] := by
  cases h with
  | emit c n _ hroom => exact .inr ⟨⟨c, n, rfl⟩, by simpa [State.outHasRoom] using hroom, _, rfl⟩
  | _ => exact .inl rfl

/-- Only the three commands that transform touch the engine. -/
theorem MicroEffect.engine {s t : State} {r : Running} {i : Instr} (h : MicroEffect s r i t) :
    t.engine = s.engine ∨ ∃ c, i = .permute c ∨ (∃ n, i = .absorb c n) ∨ ∃ n, i = .squeeze c n := by
  cases h with
  | permute c => exact .inr ⟨c, .inl rfl⟩
  | absorbTransform c n => exact .inr ⟨c, .inr (.inl ⟨n, rfl⟩)⟩
  | squeezeTransform c n => exact .inr ⟨c, .inr (.inr ⟨n, rfl⟩)⟩
  | _ => exact .inl rfl

/-- A micro-step never halts the block, and writes ERR only as it ends its command with OK (60_exceptions.md R204). -/
theorem MicroEffect.status {s t : State} {r : Running} {i : Instr} (h : MicroEffect s r i t) :
    t.fatal = s.fatal ∧ (t.err = s.err ∨ t.err = .ok ∧ t.run = none) := by
  cases h with
  | finish | reset | clone | encode | decode => exact ⟨rfl, .inr ⟨rfl, rfl⟩⟩
  | _ => exact ⟨rfl, .inl rfl⟩

/-! The frames of a command. -/

/-- A step of a command that is no micro-step writes BUSY, FATAL and ERR at most. -/
theorem exec_issue_or_micro {i : Instr} {s t : State} (h : exec i s = .next t) :
    (∃ run fatal err, t = { s with run := run, fatal := fatal, err := err }) ∨
      ∃ r, s.run = some r ∧ MicroEffect s r i t := by
  rcases exec_effect h with ⟨_, rfl⟩ | ⟨_, _, e, rfl⟩ | ⟨_, _, _, rfl⟩ | ⟨_, r, hrun, hmicro⟩
  · exact .inl ⟨_, _, _, rfl⟩
  · exact .inl ⟨_, _, _, rfl⟩
  · exact .inl ⟨_, _, _, rfl⟩
  · exact .inr ⟨r, hrun, hmicro⟩

/-- Settles O31: neither the issue nor a micro-step writes what is outside. -/
theorem commandsKeepOutside : Obligations.CommandsKeepOutside := by
  intro i s t h
  rcases exec_issue_or_micro h with ⟨_, _, _, rfl⟩ | ⟨r, _, hmicro⟩
  · exact ⟨rfl, rfl, rfl, rfl, rfl, rfl, rfl, rfl, rfl⟩
  · exact hmicro.sameOutside

/-- Settles O32: of all the steps of a command only its micro-steps write a context, and each writes its command's. -/
theorem commandsKeepOtherContexts : Obligations.CommandsKeepOtherContexts := by
  intro i s t d h hd
  rcases exec_issue_or_micro h with ⟨_, _, _, rfl⟩ | ⟨r, _, hmicro⟩
  · rfl
  · exact hmicro.ctx_other hd

/-- What a step of a command can do to RESULT: only the ending step of a DECODE writes it (10_state.md R34). -/
theorem exec_result {i : Instr} {s t : State} (h : exec i s = .next t) :
    t.result = s.result ∨ s.run ≠ none ∧ ∃ c k j, i = .decode c k j ∧ t.err = .ok ∧ t.run = none ∧
      t.result = sext32 (codeOf ((s.ctx c).digit k.toNat j.toNat)) := by
  rcases exec_issue_or_micro h with ⟨_, _, _, rfl⟩ | ⟨r, hrun, hmicro⟩
  · exact .inl rfl
  · exact hmicro.result.imp_right fun hdecode => ⟨by simp [hrun], hdecode⟩

/-- Settles O33: the issue writes neither RESULT nor a FIFO nor the engine, and a micro-step writes its own command's. -/
theorem commandsWriteOnlyTheirRegisters : Obligations.CommandsWriteOnlyTheirRegisters := by
  intro i s t h
  constructor
  · intro hne
    obtain ⟨_, c, k, j, hi, _⟩ := (exec_result h).resolve_left hne
    exact ⟨c, k, j, hi⟩
  rcases exec_issue_or_micro h with ⟨_, _, _, rfl⟩ | ⟨r, _, hmicro⟩
  · exact ⟨.inl rfl, .inl rfl, fun hne => absurd rfl hne⟩
  · exact ⟨hmicro.inFifo, hmicro.outFifo.imp_right fun ⟨hi, _, d, ht⟩ => ⟨hi, codeOf d, ht⟩,
      hmicro.engine.resolve_left⟩

end Sys2Proof.Machine
end

section
/-! PROOFS. The register window: the access to each register, and where the fields of its word stand (10_state.md R30 to R42;
20_memory.md R65, R72, R73). -/

namespace Sys2Proof.Machine

/-! The sixteen registers. -/

theorem Csr.ofOffset_reserved {off : Nat} (h : 0x28 ≤ off) : Csr.ofOffset off = .reserved := by
  unfold Csr.ofOffset
  split
  case h_11 => rfl
  all_goals omega

theorem Csr.ofOffset_ne_dout {off : Nat} (h : off ≠ 0x14) : Csr.ofOffset off ≠ .dout := by
  unfold Csr.ofOffset
  split <;> simp_all

/-- The registers that a write reaches; the others are read-only or reserved (10_state.md R30). -/
def Csr.writable : Csr → Bool
  | .cmd | .len | .status | .din => true
  | .result | .dout | .fifoStatus | .config | .dirs | .fifoCfg | .reserved => false

/-- A write to a read-only register or a reserved offset does nothing. -/
theorem writeCsr_not_writable {s : State} {v : Word} {r : Csr} (h : r.writable = false) : writeCsr s v r = .next s := by
  unfold writeCsr
  split
  · rfl
  · cases r with
    | cmd | len | status | din => cases h
    | _ => rfl

theorem hostWrite_not_writable {s : State} {off : Nat} {v : Word} (ha : off % 4 = 0) (hw : off < 64)
    (h : (Csr.ofOffset off).writable = false) : hostWrite s off 4 v = .next s :=
  (hostWrite_aligned ha hw).trans (writeCsr_not_writable h)

/-! A write to a writable register of a block that is not halted. -/

theorem writeCsr_cmd {s : State} {v : Word} (h : s.fatal = false) : writeCsr s v .cmd = commandWrite s v := by
  simp [writeCsr, h]

theorem writeCsr_len {s : State} {v : Word} (h : s.fatal = false) : writeCsr s v .len = .next { s with len := v } := by
  simp [writeCsr, h]

theorem writeCsr_status {s : State} {v : Word} (h : s.fatal = false) :
    writeCsr s v .status = .next (s.clearSticky v) := by
  simp [writeCsr, h]

theorem writeCsr_din {s : State} {v : Word} (h : s.fatal = false) :
    writeCsr s v .din = .next (s.pushIn (v.extractLsb' 0 8)) := by
  simp [writeCsr, h]

theorem hostWrite_cmd {s : State} {v : Word} (h : s.fatal = false) : hostWrite s 0x00 4 v = commandWrite s v :=
  (hostWrite_aligned rfl (by decide)).trans (writeCsr_cmd h)

theorem hostWrite_din {s : State} {v : Word} (h : s.fatal = false) :
    hostWrite s 0x10 4 v = .next (s.pushIn (v.extractLsb' 0 8)) :=
  (hostWrite_aligned rfl (by decide)).trans (writeCsr_din h)

/-- A halted block ignores a write to any register. -/
theorem hostWrite_halted {s : State} {off : Nat} {v : Word} (ha : off % 4 = 0) (hw : off < 64) (h : s.fatal = true) :
    hostWrite s off 4 v = .next s :=
  (hostWrite_aligned ha hw).trans (writeCsr_halted h)

/-- A read of any register but DOUT shows its word and changes nothing of the block. -/
theorem hostRead_plain {s : State} {off : Nat} (ha : off % 4 = 0) (hw : off < 64) (h : off ≠ 0x14) :
    hostRead s off 4 = .next { s with seen := (readCsr s (Csr.ofOffset off)).1 :: s.seen } := by
  rw [hostRead_aligned ha hw, readCsr_state (Csr.ofOffset_ne_dout h)]

/-- Settles O48: the offsets listed are those of the registers no write reaches, and all but DOUT's are read plainly. -/
theorem accessesWithoutEffect : Obligations.AccessesWithoutEffect := by
  intro s off ha hw
  refine ⟨fun hoff v => hostWrite_not_writable ha hw ?_, fun hoff => ?_, fun hoff => ⟨_, hostRead_plain ha hw hoff⟩⟩
  · rcases hoff with rfl | rfl | rfl | rfl | rfl | rfl | hres
    case inr.inr.inr.inr.inr.inr => rw [Csr.ofOffset_reserved hres]; rfl
    all_goals rfl
  · rw [hostRead_plain ha hw (by omega), Csr.ofOffset_reserved hoff]
    rfl

/-! CMD, LEN and the two FIFO ports. -/

theorem commandWrite_busy {s : State} {w : Word} {r : Running} (h : s.run = some r) :
    commandWrite s w = .next { s with overrun := true } := by
  simp [commandWrite, h]

theorem commandWrite_decoded {s : State} {w : Word} {i : Instr} (h : s.run = none) (hw : decode w = .ok i) :
    commandWrite s w = exec i s := by
  simp [commandWrite, h, hw]

theorem commandWrite_illegal {s : State} {w : Word} {e : DecodeError} (h : s.run = none) (hw : decode w = .error e) :
    commandWrite s w = .next (s.raise .illegalCommand) := by
  simp [commandWrite, h, hw]

/-- ILLEGAL_COMMAND is not fatal: raising it writes ERR alone. -/
theorem raise_illegalCommand (s : State) : s.raise .illegalCommand = { s with err := .illegalCommand } := by
  simp [State.raise, ErrCode.isFatal]

/-- Settles O19: by phase and by what the word decodes to. -/
theorem commandRegister : Obligations.CommandRegister := by
  intro s w
  refine ⟨hostWrite_halted rfl (by decide), fun hfatal hrun => ?_, fun i hfatal hrun hw => ?_,
    fun e hfatal hrun hw => ?_, hostRead_plain rfl (by decide) (by decide)⟩
  · obtain ⟨r, hr⟩ := Option.ne_none_iff_exists'.mp hrun
    exact (hostWrite_cmd hfatal).trans (commandWrite_busy hr)
  · exact (hostWrite_cmd hfatal).trans (commandWrite_decoded hrun hw)
  · rw [hostWrite_cmd hfatal, commandWrite_illegal hrun hw, raise_illegalCommand]

/-- Settles O39: LEN is a plain register. -/
theorem lengthRegister : Obligations.LengthRegister :=
  fun _ _ => ⟨fun h => (hostWrite_aligned rfl (by decide)).trans (writeCsr_len h), hostRead_plain rfl (by decide) (by decide)⟩

/-- Settles O43: a push has room, or the FIFO is full, or the block is halted. -/
theorem inputFifoPush : Obligations.InputFifoPush := by
  intro s v
  refine ⟨fun hfatal hroom => ?_, fun hfatal hfull => ?_, hostWrite_halted rfl (by decide),
    hostRead_plain rfl (by decide) (by decide)⟩
  · rw [hostWrite_din hfatal, State.pushIn_room _ hfatal hroom]
  · rw [hostWrite_din hfatal, State.pushIn_full _ hfatal hfull]

theorem hostRead_dout (s : State) :
    hostRead s 0x14 4 = .next { s.popOut.2 with seen := s.popOut.1 :: s.seen } :=
  hostRead_aligned rfl (by decide)

/-- Settles O44: a pop finds an entry, or the FIFO is empty, or the block is halted; DOUT is not writable. -/
theorem outputFifoPop : Obligations.OutputFifoPop := by
  intro s
  refine ⟨fun v rest hfatal hfifo => ?_, fun hfatal hempty => ?_, fun hfatal => ?_,
    fun v => hostWrite_not_writable rfl (by decide) rfl⟩ <;> rw [hostRead_dout]
  · simp [State.popOut, hfatal, hfifo, sext32]
  · simp [State.popOut, hfatal, hempty]
  · simp [State.popOut, hfatal]

/-! The words of the read-only registers and of STATUS. -/

@[simp] theorem extract_place {n : Nat} (v : BitVec n) (lo : Nat) (h : lo + n ≤ 32) :
    (place v lo).extractLsb' lo n = v := by
  simpa using extract_or_place 0#32 v lo h (by simp)

/-- A placed field is 0 in the bits below it and above it. -/
@[simp] theorem extract_place_apart {n : Nat} (v : BitVec n) {lo lo' n' : Nat} (h : lo' + n' ≤ lo ∨ lo + n ≤ lo') :
    (place v lo).extractLsb' lo' n' = 0#n' := by
  apply BitVec.eq_of_getLsbD_eq
  intro k hk
  simp only [BitVec.getLsbD_extractLsb', place_getLsbD, BitVec.getLsbD_zero]
  rcases h with h | h
  · have hbelow : ¬lo ≤ lo' + k := by omega
    simp [hbelow]
  · have habove : n ≤ lo' + k - lo := by omega
    simp [BitVec.getLsbD_of_ge v _ habove]

/-- The flags of STATUS, each at its bit (10_state.md R32). -/
theorem statusWord_flags (s : State) :
    (statusWord s).getLsbD 0 = s.run.isSome ∧ (statusWord s).getLsbD 1 = s.fatal ∧ (statusWord s).getLsbD 2 = s.overrun ∧
      (statusWord s).getLsbD 3 = s.inOverflow ∧ (statusWord s).getLsbD 4 = s.outUnderflow := by
  simp only [statusWord, State.busy, BitVec.getLsbD_or, place_getLsbD]
  simp

/-- ERR and the reserved bits of STATUS (10_state.md R32). -/
theorem statusWord_fields (s : State) :
    (statusWord s).extractLsb' 5 3 = 0#3 ∧ (statusWord s).extractLsb' 8 4 = s.err.number ∧
      (statusWord s).extractLsb' 12 20 = 0#20 := by
  simp [statusWord, BitVec.extractLsb'_or]

/-- Clearing a sticky bit is a choice on the written bit. -/
theorem and_not_eq_ite (a b : Bool) : (a && !b) = if b then false else a := by
  cases b <;> simp

/-- Settles O40: each field of the word is read at its own bits, and a write chooses bit by bit. -/
theorem statusRegister : Obligations.StatusRegister := by
  constructor
  · intro s
    obtain ⟨hbusy, hfatal, hoverrun, hover, hunder⟩ := statusWord_flags s
    exact ⟨statusWord s, hostRead_plain rfl (by decide) (by decide), hbusy, hfatal, hoverrun, hover, hunder,
      statusWord_fields s⟩
  · intro s v hfatal
    refine (hostWrite_aligned rfl (by decide)).trans ((writeCsr_status hfatal).trans ?_)
    simp only [State.clearSticky, and_not_eq_ite]

/-- Settles O45: a count within a legal depth fits its 16 bits. -/
theorem fifoCountRegister : Obligations.FifoCountRegister := by
  refine ⟨rfl, fun s v => hostWrite_not_writable rfl (by decide) rfl, fun s hvalid hbounded => ?_⟩
  obtain ⟨_, _, _, hideep, _, hodeep⟩ := hvalid
  obtain ⟨hin, hout⟩ := hbounded
  refine ⟨fifoStatusWord s, hostRead_plain rfl (by decide) (by decide), ?_, ?_⟩
  · simp [fifoStatusWord, BitVec.extractLsb'_or]; omega
  · simp [fifoStatusWord, BitVec.extractLsb'_or]; omega

theorem configWord_fields {g : Config} (h : g.Valid) :
    ((configWord g).extractLsb' 0 8).toNat = g.lanes ∧ ((configWord g).extractLsb' 8 8).toNat = 81 ∧
      ((configWord g).extractLsb' 16 8).toNat = g.ctxCount ∧ (configWord g).extractLsb' 24 8 = 0#8 := by
  obtain ⟨_, hctx, _⟩ := h
  have hlanes := lanes_le g
  simp [configWord, roundCount, BitVec.extractLsb'_or]; omega

theorem fifoCfgWord_fields {g : Config} (h : g.Valid) :
    ((fifoCfgWord g).extractLsb' 0 16).toNat = g.ififoDepth ∧ ((fifoCfgWord g).extractLsb' 16 16).toNat = g.ofifoDepth := by
  obtain ⟨_, _, _, hin, _, hout⟩ := h
  simp [fifoCfgWord, BitVec.extractLsb'_or]; omega

/-! DIRS. -/

theorem dirBits_getLsbD (s : State) (n k : Nat) : (dirBits s n).getLsbD k = (decide (k < n) && dirBit s k) := by
  induction n with
  | zero => simp [dirBits]
  | succ n ih =>
    rw [dirBits, BitVec.getLsbD_cons, ih]
    by_cases hk : k = n
    · simp [hk]
    · have hlt : k < n + 1 ↔ k < n := by omega
      simp [hk, hlt]

theorem dirsWord_getLsbD (s : State) (k : Nat) : (dirsWord s).getLsbD k = (decide (k < 16) && dirBit s k) := by
  rw [dirsWord, place_getLsbD, Nat.sub_zero, dirBits_getLsbD]
  by_cases hk : k < 16
  · have h32 : k < 32 := by omega
    simp [hk, h32]
  · simp [hk]

/-- Settles O47: bit c of the word is `dirBit`, and context 15 is the last one a legal configuration can have. -/
theorem directionsRegister : Obligations.DirectionsRegister := by
  refine ⟨?_, fun s v => hostWrite_not_writable rfl (by decide) rfl, fun s hvalid =>
    ⟨dirsWord s, hostRead_plain rfl (by decide) (by decide), fun c hc => ?_, fun b hb => ?_⟩⟩
  · apply BitVec.eq_of_getLsbD_eq
    intro k _
    simp [dirsWord_getLsbD, dirBit, State.reset, State.resetOf, State.ctx, Context.zero]
  · have hslot : c.toNat < 16 := c.isLt
    simp [dirsWord_getLsbD, dirBit, hslot, hc]
  · simp [dirsWord_getLsbD, dirBit, Nat.not_lt.mpr hb]

end Sys2Proof.Machine
end

section
/-! PROOFS. The inversion of a step of the whole machine, and what it says of the constants, RESULT, FATAL and CMD (10_state.md R25, R31,
R34, R50; 20_memory.md R76; 70_reset_and_hazards.md R230). -/

namespace Sys2Proof.Machine

/-- What a host access that issues no command leaves of the block: all but LEN, the sticky bits and the FIFOs, the input FIFO growing
within its depth and the output FIFO shrinking (20_memory.md R65, R72, R73). -/
structure AccessFrame (s t : State) : Prop where
  cfg : t.cfg = s.cfg
  ctxs : t.ctxs = s.ctxs
  engine : t.engine = s.engine
  run : t.run = s.run
  fatal : t.fatal = s.fatal
  err : t.err = s.err
  result : t.result = s.result
  inFifo : t.inFifo.length ≤ max s.inFifo.length s.cfg.ififoDepth
  outFifo : t.outFifo <:+ s.outFifo

theorem AccessFrame.trans {s u t : State} (h : AccessFrame s u) (k : AccessFrame u t) : AccessFrame s t where
  cfg := k.cfg.trans h.cfg
  ctxs := k.ctxs.trans h.ctxs
  engine := k.engine.trans h.engine
  run := k.run.trans h.run
  fatal := k.fatal.trans h.fatal
  err := k.err.trans h.err
  result := k.result.trans h.result
  inFifo := by
    have hin := k.inFifo
    rw [h.cfg] at hin
    exact hin.trans (max_le h.inFifo (le_max_right _ _))
  outFifo := k.outFifo.trans h.outFifo

theorem AccessFrame.ctx {s t : State} (h : AccessFrame s t) (c : CtxIdx) : t.ctx c = s.ctx c :=
  State.ctx_congr h.ctxs c

/-- The registers written and the world around the block are outside the frame. -/
theorem AccessFrame.of_registers (s : State) (len : Word) (overrun inOverflow outUnderflow : Bool) (inputs : List HostInput)
    (seen : List Word) (turns : List Agent) (clock : Nat) :
    AccessFrame s { s with
      len := len, overrun := overrun, inOverflow := inOverflow, outUnderflow := outUnderflow
      inputs := inputs, seen := seen, turns := turns, clock := clock } :=
  ⟨rfl, rfl, rfl, rfl, rfl, rfl, rfl, le_max_left _ _, List.suffix_refl _⟩

theorem AccessFrame.refl (s : State) : AccessFrame s s := .of_registers s _ _ _ _ _ _ _ _

theorem AccessFrame.pushIn (s : State) (v : Byte) : AccessFrame s (s.pushIn v) := by
  rcases State.pushIn_cases s v with ⟨_, he⟩ | ⟨hroom, he⟩ | ⟨_, he⟩ <;> rw [he]
  · exact .refl s
  · refine ⟨rfl, rfl, rfl, rfl, rfl, rfl, rfl, ?_, List.suffix_refl _⟩
    simp [Nat.succ_le_of_lt hroom]
  · exact .of_registers s _ _ _ _ _ _ _ _

theorem AccessFrame.popOut (s : State) : AccessFrame s s.popOut.2 := by
  rcases State.popOut_cases s with ⟨_, he⟩ | ⟨v, rest, hfifo, he⟩ | ⟨_, he⟩ <;> rw [he]
  · exact .refl s
  · exact ⟨rfl, rfl, rfl, rfl, rfl, rfl, rfl, le_max_left _ _, hfifo ▸ List.suffix_cons v rest⟩
  · exact .of_registers s _ _ _ _ _ _ _ _

theorem AccessFrame.afterChoice (s : State) : AccessFrame s s.afterChoice := by
  unfold State.afterChoice
  split
  · exact .of_registers s _ _ _ _ _ _ _ _
  · exact .refl s

theorem AccessFrame.takeInput (s : State) (rest : List HostInput) : AccessFrame s { s.afterChoice with inputs := rest } :=
  (AccessFrame.afterChoice s).trans (.of_registers s.afterChoice _ _ _ _ rest _ _ _)

theorem AccessFrame.readCsr (s : State) (r : Csr) : AccessFrame s (readCsr s r).2 := by
  by_cases h : r = .dout
  · subst h
    exact .popOut s
  · rw [readCsr_state h]
    exact .refl s

/-! A host access. -/

/-- An access stops the machine or is one of the window: it never answers a next state by itself. -/
theorem accessStop_ne_next {off size : Nat} {t : State} : accessStop off size ≠ some (.next t) := by
  unfold accessStop
  split_ifs <;> simp

theorem hostRead_frame {s t : State} {off size : Nat} (h : hostRead s off size = .next t) : AccessFrame s t := by
  unfold hostRead at h
  split at h
  case h_1 o ho => exact absurd (h ▸ ho) accessStop_ne_next
  case h_2 =>
    cases h
    exact (AccessFrame.readCsr s _).trans (.of_registers _ _ _ _ _ _ _ _ _)

theorem hostWrite_csr {s t : State} {off size : Nat} {v : Word} (h : hostWrite s off size v = .next t) :
    writeCsr s v (Csr.ofOffset off) = .next t := by
  unfold hostWrite at h
  split at h
  case h_1 o ho => exact absurd (h ▸ ho) accessStop_ne_next
  case h_2 => exact h

/-- Everything a CMD write can do while the block is not halted (10_state.md R31). -/
theorem commandWrite_cases {s t : State} {w : Word} (h : commandWrite s w = .next t) :
    AccessFrame s t ∨ s.run = none ∧ (t = s.raise .illegalCommand ∨ ∃ i, exec i s = .next t) := by
  cases hrun : s.run with
  | some r =>
    rw [commandWrite_busy hrun] at h
    cases h
    exact .inl (.of_registers s _ _ _ _ _ _ _ _)
  | none =>
    cases hw : decode w with
    | ok i => exact .inr ⟨rfl, .inr ⟨i, (commandWrite_decoded hrun hw).symm.trans h⟩⟩
    | error e =>
      rw [commandWrite_illegal hrun hw] at h
      cases h
      exact .inr ⟨rfl, .inl rfl⟩

/-- Everything a register write can do: it issues, or fails to decode, or stays within its frame. -/
theorem writeCsr_cases {s t : State} {v : Word} {r : Csr} (h : writeCsr s v r = .next t) :
    AccessFrame s t ∨ s.fatal = false ∧ s.run = none ∧ (t = s.raise .illegalCommand ∨ ∃ i, exec i s = .next t) := by
  by_cases hw : r.writable = false
  · rw [writeCsr_not_writable hw] at h
    cases h
    exact .inl (.refl s)
  cases hfatal : s.fatal with
  | true =>
    rw [writeCsr_halted hfatal] at h
    cases h
    exact .inl (.refl s)
  | false =>
    cases r with
    | cmd =>
      rw [writeCsr_cmd hfatal] at h
      exact (commandWrite_cases h).imp_right fun hcmd => ⟨rfl, hcmd⟩
    | len =>
      rw [writeCsr_len hfatal] at h
      cases h
      exact .inl (.of_registers s _ _ _ _ _ _ _ _)
    | status =>
      rw [writeCsr_status hfatal] at h
      cases h
      exact .inl (.of_registers s _ _ _ _ _ _ _ _)
    | din =>
      rw [writeCsr_din hfatal] at h
      cases h
      exact .inl (.pushIn s _)
    | _ => exact absurd rfl hw

/-! A step of the machine. -/

/-- A halted block's core takes no step (60_exceptions.md R206). -/
theorem fatal_of_coreEnabled {s : State} (h : s.coreEnabled = true) : s.fatal = false := by
  unfold State.coreEnabled at h
  rw [Bool.and_eq_true, Bool.not_eq_true'] at h
  exact h.1

/-- Everything a step of the machine can do to the block: hardware reset, an access that issues nothing, a word that is no command, or a
step of a command, the latched one at Busy (20_memory.md R76). `u` is the state once the choice and the access have been taken. -/
theorem step_effect {s t : State} (h : step s = .next t) :
    (s.inputs.head? = some .hardReset ∧ ∃ u, AccessFrame s u ∧ t = u.hardReset) ∨
    AccessFrame s t ∨
    (s.fatal = false ∧ s.run = none ∧ ∃ u, AccessFrame s u ∧ t = u.raise .illegalCommand) ∨
    (s.fatal = false ∧ ∃ u i, AccessFrame s u ∧ exec i u = .next t ∧ ∀ r, s.run = some r → r.cmd = i) := by
  rcases step_cases s with ⟨hcore, hstep⟩ | ⟨_, hstep⟩ | ⟨_, _, hstep⟩ <;> rw [hstep] at h
  · unfold coreStep at h
    rw [State.afterChoice_run] at h
    split at h
    case h_1 =>
      cases h
      exact .inr (.inl (.afterChoice s))
    case h_2 r hrun =>
      exact .inr (.inr (.inr ⟨fatal_of_coreEnabled hcore, _, r.cmd, .afterChoice s, h,
        fun _ hr => congrArg Running.cmd (Option.some.inj (hr.symm.trans hrun))⟩))
  · unfold hostStep at h
    rw [State.afterChoice_inputs] at h
    split at h
    case h_1 =>
      cases h
      exact .inr (.inl (.afterChoice s))
    case h_2 x rest hinputs =>
      have hframe := AccessFrame.takeInput s rest
      cases x with
      | hardReset =>
        cases h
        exact .inl ⟨by rw [hinputs]; rfl, _, hframe, rfl⟩
      | read off size => exact .inr (.inl (hframe.trans (hostRead_frame h)))
      | write off size v =>
        rcases writeCsr_cases (hostWrite_csr h) with hkeep | ⟨hfatal, hrun, ht | ⟨i, hexec⟩⟩
        · exact .inr (.inl (hframe.trans hkeep))
        · exact .inr (.inr (.inl ⟨hframe.fatal ▸ hfatal, hframe.run ▸ hrun, _, hframe, ht⟩))
        · have hidle : s.run = none := hframe.run ▸ hrun
          exact .inr (.inr (.inr ⟨hframe.fatal ▸ hfatal, _, i, hframe, hexec, fun r hr => by simp [hidle] at hr⟩))
  · cases h
    exact .inr (.inl (.refl s))

/-- No step changes a constant (10_state.md R25). -/
theorem step_cfg {s t : State} (h : step s = .next t) : t.cfg = s.cfg := by
  rcases step_effect h with ⟨_, u, hframe, rfl⟩ | hframe | ⟨_, _, u, hframe, rfl⟩ | ⟨_, u, i, hframe, hexec, _⟩
  · exact hframe.cfg
  · exact hframe.cfg
  · exact hframe.cfg
  · exact (commandsKeepOutside i u t hexec).1.trans hframe.cfg

/-- Settles O46: the fields of the two words, and no write and no step reaches a constant. -/
theorem parameterRegisters : Obligations.ParameterRegisters := by
  refine ⟨fun s hvalid => ?_, fun s v => ⟨?_, ?_⟩, fun s t => step_cfg, by decide, by decide⟩
  case refine_2 => exact hostWrite_not_writable rfl (by decide) rfl
  case refine_3 => exact hostWrite_not_writable rfl (by decide) rfl
  obtain ⟨hlanes, hrounds, hctx, htop⟩ := configWord_fields hvalid
  exact ⟨configWord s.cfg, fifoCfgWord s.cfg, hostRead_plain rfl (by decide) (by decide),
    hostRead_plain rfl (by decide) (by decide), hlanes, hrounds, hctx, htop, fifoCfgWord_fields hvalid⟩

/-- Only hardware reset clears FATAL (70_reset_and_hazards.md R230). -/
theorem step_clears_fatal {s t : State} (hs : s.fatal = true) (h : step s = .next t) (ht : t.fatal = false) :
    s.inputs.head? = some .hardReset := by
  rcases step_effect h with ⟨hreset, _⟩ | hframe | ⟨hfatal, _⟩ | ⟨hfatal, _⟩
  · exact hreset
  · rw [hframe.fatal, hs] at ht
    cases ht
  · rw [hs] at hfatal
    cases hfatal
  · rw [hs] at hfatal
    cases hfatal

@[simp] theorem resetOf_ctx (g : Config) (c : CtxIdx) : (State.resetOf g).ctx c = Context.zero := by
  simp [State.resetOf, State.ctx]

theorem statusWord_hardReset (s : State) : statusWord s.hardReset = 0#32 := by
  simp [statusWord, State.busy, ErrCode.number, place]

/-- Settles O38: the reset state field by field, and the inversion of a step for the clearing of FATAL. -/
theorem hardwareResetValues : Obligations.HardwareResetValues := by
  refine ⟨fun s => ⟨s.hardReset, rfl, fun c i => ?_, fun c => ?_, rfl, statusWord_hardReset s, rfl, rfl, rfl, rfl, rfl, rfl, rfl,
    rfl, rfl, rfl⟩,
    fun s t => step_clears_fatal, fun c i => ?_, fun c => ?_, rfl, rfl, rfl, rfl, rfl, rfl, rfl⟩
  · rw [State.ctx_hardReset, Context.cell_zero]
    rfl
  · rw [State.ctx_hardReset]
    rfl
  · rw [State.reset, resetOf_ctx, Context.cell_zero]
    rfl
  · rw [State.reset, resetOf_ctx]
    rfl

/-- Settles O42: of the effects of a step only hardware reset and the ending step of a DECODE write RESULT, and the latter is no issue. -/
theorem resultRegister : Obligations.ResultRegister := by
  refine ⟨rfl, fun s => ⟨hostRead_plain rfl (by decide) (by decide), fun v => hostWrite_not_writable rfl (by decide) rfl,
    fun i t h hne => ?_, fun t h hne => ?_⟩⟩
  · obtain ⟨_, hdecode⟩ := (exec_result h).resolve_left hne
    exact hdecode
  · rcases step_effect h with ⟨hreset, u, _, rfl⟩ | hframe | ⟨_, _, u, hframe, rfl⟩ | ⟨_, u, i, hframe, hexec, hcmd⟩
    · exact .inl ⟨hreset, rfl⟩
    · exact absurd hframe.result hne
    · exact absurd hframe.result hne
    · rw [← hframe.result] at hne
      obtain ⟨hrun, c, x, j, hi, herr, hend, hresult⟩ := (exec_result hexec).resolve_left hne
      obtain ⟨r, hr⟩ := Option.ne_none_iff_exists'.mp (hframe.run ▸ hrun)
      rw [hframe.ctx] at hresult
      exact .inr ⟨r, c, x, j, hr, (hcmd r hr).trans hi, herr, hend, hresult⟩

/-! A step that takes a command word. -/

/-- At Idle the core has no step, so the host's oldest access is the step of the machine. -/
theorem step_idle {s : State} {x : HostInput} {rest : List HostInput} (hrun : s.run = none) (hinputs : s.inputs = x :: rest) :
    step s = hostInput { s with inputs := rest } x := by
  have hcore : s.coreEnabled = false := by simp [State.coreEnabled, hrun]
  have hchoice : s.afterChoice = s := State.afterChoice_closed (by simp [State.choiceOpen, hcore])
  have hmover : s.mover = some .host := by simp [State.mover, hcore, State.hostEnabled, hinputs]
  simp [step, hmover, hchoice, hostStep, hinputs]

theorem step_issues {s : State} {w : Word} {i : Instr} {rest : List HostInput} (hfatal : s.fatal = false) (hrun : s.run = none)
    (hinputs : s.inputs = .write 0x00 4 w :: rest) (hw : decode w = .ok i) :
    step s = exec i { s with inputs := rest } := by
  rw [step_idle hrun hinputs]
  exact (hostWrite_cmd (s := { s with inputs := rest }) hfatal).trans (commandWrite_decoded hrun hw)

/-- The four bytes of a word put together again give the word (20_memory.md R63). -/
theorem wordOfBytes_extract (w : Word) :
    wordOfBytes (w.extractLsb' 0 8) (w.extractLsb' 8 8) (w.extractLsb' 16 8) (w.extractLsb' 24 8) = w := by
  apply BitVec.eq_of_getLsbD_eq
  intro k hk
  simp only [wordOfBytes, BitVec.getLsbD_or, place_getLsbD, BitVec.getLsbD_extractLsb']
  interval_cases k <;> simp

/-- A word that the table's numbering decodes is a word that a CMD write decodes. -/
theorem decode_of_decodeTableWord {n w : Nat} {i : Instr} (h : decodeTableWord n w = some i) :
    decode (tableWord n w) = .ok i := by
  simp only [decodeTableWord, bytesOfWord, decodeBytes, wordOfBytes_extract] at h
  cases hw : decode (tableWord n w) with
  | ok k =>
    rw [hw] at h
    exact congrArg Except.ok (Option.some.inj h)
  | error e =>
    rw [hw] at h
    cases h

/-- Settles O50: at Idle the access is the step, and `withFetchWord` makes the block idle with that access pending. -/
theorem stepRunsDecodedCommand : Obligations.StepRunsDecodedCommand :=
  ⟨fun _ _ _ _ => step_issues, fun _ _ _ h => step_issues rfl rfl rfl (decode_of_decodeTableWord h)⟩

end Sys2Proof.Machine
end

section
/-! PROOFS. The invariants of the planes: exclusivity and the width of the words, kept by every step (10_state.md R20, R22; 00_scope.md
R13; 40_codec.md R114; 42_permutation.md R141). -/

namespace Sys2Proof.Machine

/-! One cell: the S-box and the write of a digit, bit by bit. -/

theorem Cell.exclusive_iff (x : Cell) : x.Exclusive ↔ ∀ k, k < 64 → (x.p.getLsbD k && x.n.getLsbD k) = false := by
  unfold Cell.Exclusive
  constructor
  · intro h k _
    rw [← BitVec.getLsbD_and, h, BitVec.getLsbD_zero]
  · intro h
    apply BitVec.eq_of_getLsbD_eq
    intro k hk
    rw [BitVec.getLsbD_and, h k hk, BitVec.getLsbD_zero]

theorem plane_fits_iff (g : Config) (a : Plane) :
    a &&& ~~~planeMask g = 0#64 ↔ ∀ k, g.lanes ≤ k → a.getLsbD k = false := by
  constructor
  · intro h k hk
    by_cases h64 : k < 64
    · have hbit := congrArg (fun v => v.getLsbD k) h
      simp only [BitVec.getLsbD_and, BitVec.getLsbD_not, planeMask_getLsbD] at hbit
      simpa [Nat.not_lt.mpr hk, h64] using hbit
    · exact BitVec.getLsbD_of_ge a k (Nat.not_lt.mp h64)
  · intro h
    apply BitVec.eq_of_getLsbD_eq
    intro k hk
    by_cases hg : k < g.lanes
    · simp [planeMask_getLsbD, hg, hk]
    · simp [h k (Nat.not_lt.mp hg)]

theorem Cell.fitsWidth_iff (g : Config) (x : Cell) :
    x.FitsWidth g ↔ ∀ k, g.lanes ≤ k → x.p.getLsbD k = false ∧ x.n.getLsbD k = false := by
  simp only [Cell.FitsWidth, plane_fits_iff, forall_and]

theorem Cell.zero_exclusive : Cell.zero.Exclusive := rfl

theorem Cell.zero_fitsWidth (g : Config) : Cell.zero.FitsWidth g := by
  simp [Cell.fitsWidth_iff, Cell.zero]

/-- The S-box never sets both planes of a lane, whatever its inputs (42_permutation.md R141). -/
theorem sbox_exclusive (g : Config) (x y : Cell) : (sbox g x y).Exclusive := by
  rw [Cell.exclusive_iff]
  intro k _
  by_cases hg : k < g.lanes
  · obtain ⟨hp, hn⟩ := sbox_getLsbD g x y hg
    rw [hp, hn]
    cases (x.n.getLsbD k ^^ y.p.getLsbD k) <;> simp
  · simp [sbox_getLsbD_outside g x y (Nat.not_lt.mp hg)]

theorem sbox_fitsWidth (g : Config) (x y : Cell) : (sbox g x y).FitsWidth g :=
  (Cell.fitsWidth_iff g _).mpr fun _ hk => sbox_getLsbD_outside g x y hk

/-- The planes of a cell after a digit is written, bit by bit (40_codec.md R112). -/
theorem enc_getLsbD (x : Cell) (j : Nat) (d : Digit) {k : Nat} (hk : k < 64) :
    (enc x j d).p.getLsbD k = (if k = j then decide (d = .pos) else x.p.getLsbD k) ∧
      (enc x j d).n.getLsbD k = (if k = j then decide (d = .neg) else x.n.getLsbD k) := by
  cases d <;> simp only [enc, BitVec.getLsbD_or, BitVec.getLsbD_and, BitVec.getLsbD_not, laneMask_getLsbD, hk] <;>
    by_cases hj : k = j <;> simp [hj]

theorem enc_exclusive {x : Cell} (h : x.Exclusive) (j : Nat) (d : Digit) : (enc x j d).Exclusive := by
  rw [Cell.exclusive_iff] at h ⊢
  intro k hk
  obtain ⟨hp, hn⟩ := enc_getLsbD x j d hk
  rw [hp, hn]
  split
  · cases d <;> rfl
  · exact h k hk

theorem enc_fitsWidth {g : Config} {x : Cell} (h : x.FitsWidth g) {j : Nat} (hj : j < g.lanes) (d : Digit) :
    (enc x j d).FitsWidth g := by
  rw [Cell.fitsWidth_iff] at h ⊢
  intro k hk
  by_cases h64 : k < 64
  · obtain ⟨hp, hn⟩ := enc_getLsbD x j d h64
    rw [hp, hn, if_neg (by omega), if_neg (by omega)]
    exact h k hk
  · exact ⟨BitVec.getLsbD_of_ge _ k (Nat.not_lt.mp h64), BitVec.getLsbD_of_ge _ k (Nat.not_lt.mp h64)⟩

/-! The transform is rounds, one after another. -/

/-- The engine's current input after `n` rounds is `n` rounds of it, whichever buffer holds it (42_permutation.md R146). -/
theorem Buffers.run_current (g : Config) (n : Nat) (b : Buffers) :
    (Buffers.run g n b).current = rounds g n b.current := by
  induction n generalizing b with
  | zero => rw [Buffers.run_zero, rounds_zero]
  | succ n ih => rw [Buffers.run_succ, rounds_succ, ih, Buffers.roundStep_current]

theorem engineTransform_cells (g : Config) (x : Cells) (e : Engine) :
    (engineTransform g x e).1 = rounds g roundCount x :=
  Buffers.run_current g roundCount _

/-! One context: what holds of every cell is kept by the writes that make such cells. -/

section
variable {P : Cell → Prop}

theorem cell_putDigit_of {x : Context} {i j : Nat} {d : Digit} (hx : ∀ k, P (x.cell k)) (henc : P (enc (x.cell i) j d))
    (k : Nat) : P ((x.putDigit i j d).cell k) := by
  rw [Context.cell_putDigit]
  split
  · exact henc
  · exact hx k

theorem roundOf_cellAt_of {g : Config} {x : Cells} (hsbox : ∀ x y, P (sbox g x y)) (hx : ∀ i, P (x.cellAt i)) (i : Nat) :
    P ((roundOf g x).cellAt i) := by
  by_cases hi : i < stateSize
  · rw [roundOf_cellAt g x hi]
    exact hsbox _ _
  · have hpast (y : Cells) : y.cellAt i = Cell.zero := by simp [Cells.cellAt, hi]
    rw [hpast, ← hpast x]
    exact hx i

theorem rounds_cellAt_of {g : Config} {x : Cells} (n : Nat) (hsbox : ∀ x y, P (sbox g x y)) (hx : ∀ i, P (x.cellAt i))
    (i : Nat) : P ((rounds g n x).cellAt i) := by
  induction n generalizing x with
  | zero =>
    rw [rounds_zero]
    exact hx i
  | succ n ih =>
    rw [rounds_succ]
    exact ih (roundOf_cellAt_of hsbox hx)

/-! One machine. -/

/-- Every cell of every context is such. -/
def State.EveryCell (P : Cell → Prop) (s : State) : Prop := ∀ (c : CtxIdx) (i : Nat), P ((s.ctx c).cell i)

theorem State.EveryCell.of_ctxs {s t : State} (h : s.EveryCell P) (ht : t.ctxs = s.ctxs) : t.EveryCell P := by
  intro c i
  rw [State.ctx_congr ht]
  exact h c i

theorem State.EveryCell.setCtx {s : State} (h : s.EveryCell P) (c : CtxIdx) {x : Context} (hx : ∀ i, P (x.cell i)) :
    (s.setCtx c x).EveryCell P := by
  intro d i
  rw [State.ctx_setCtx]
  split
  · exact hx i
  · exact h d i

theorem State.EveryCell.transform {s : State} (h : s.EveryCell P) (c : CtxIdx) (hsbox : ∀ x y, P (sbox s.cfg x y)) :
    (s.transform c).EveryCell P := by
  refine State.EveryCell.of_ctxs (h.setCtx c fun i => ?_) rfl
  rw [Context.cell_eq_cellAt, engineTransform_cells]
  exact rounds_cellAt_of roundCount hsbox (h c) i

end

/-- The lane a micro-step writes a digit into: ENCODE's, and that of ABSORB's merge. -/
def laneWritten (i : Instr) (p : Pos) : Option Nat :=
  match i, p with
  | .encode _ _ j _, _ => some j.toNat
  | .absorb _ _, .merge _ j _ => some j
  | _, _ => none

/-- A micro-step makes cells of zeros, of S-box outputs and of digits written into lanes, and of no others. -/
theorem MicroEffect.everyCell {P : Cell → Prop} {s t : State} {r : Running} {i : Instr} (h : MicroEffect s r i t)
    (hzero : P Cell.zero) (hsbox : ∀ x y, P (sbox s.cfg x y))
    (henc : ∀ x j d, laneWritten i r.pos = some j → P x → P (enc x j d)) (hs : s.EveryCell P) : t.EveryCell P := by
  cases h with
  | stall | finish | decode | emit => exact hs
  | reset c => exact hs.setCtx c fun k => by rwa [Context.cell_zero]
  | clone d e => exact hs.setCtx d (hs e)
  | encode c k j v => exact hs.setCtx c (cell_putDigit_of (hs c) (henc _ _ _ rfl (hs c _)))
  | merge c n hpos => exact hs.setCtx c (cell_putDigit_of (hs c) (henc _ _ _ (by rw [hpos]; rfl) (hs c _)))
  | permute c => exact hs.transform c hsbox
  | absorbTransform c => exact hs.transform c hsbox
  | squeezeTransform c => exact hs.transform c hsbox
  | direction c => exact hs.setCtx c (hs c)

theorem MicroEffect.exclusive {s t : State} {r : Running} {i : Instr} (h : MicroEffect s r i t) (hs : s.Exclusive) :
    t.Exclusive :=
  h.everyCell Cell.zero_exclusive (sbox_exclusive s.cfg) (fun _ j d _ hx => enc_exclusive hx j d) hs

theorem resetOf_everyCell {P : Cell → Prop} (hzero : P Cell.zero) (g : Config) : (State.resetOf g).EveryCell P := by
  intro c i
  rwa [resetOf_ctx, Context.cell_zero]

/-- Settles O54: hardware reset clears every plane, a command writes exclusive cells, and no other effect of a step writes a context. -/
theorem stepKeepsExclusivity : Obligations.StepKeepsExclusivity := by
  intro s t hs h
  rcases step_effect h with ⟨_, u, _, rfl⟩ | hframe | ⟨_, _, u, hframe, rfl⟩ | ⟨_, u, i, hframe, hexec, _⟩
  · exact State.EveryCell.of_ctxs (resetOf_everyCell Cell.zero_exclusive u.cfg) rfl
  · exact State.EveryCell.of_ctxs hs hframe.ctxs
  · exact State.EveryCell.of_ctxs hs hframe.ctxs
  · have hu : u.Exclusive := State.EveryCell.of_ctxs hs hframe.ctxs
    rcases exec_issue_or_micro hexec with ⟨_, _, _, rfl⟩ | ⟨r, _, hmicro⟩
    · exact State.EveryCell.of_ctxs hu rfl
    · exact hmicro.exclusive hu

end Sys2Proof.Machine
end

section
/-! PROOFS. The sequencer stands at a micro-step of its command: at issue, and after every micro-step (10_state.md R27, R40, R41;
43_protocol.md R172, R173, R178). -/

namespace Sys2Proof.Machine

/-- A position is judged by the constants and the directions alone. -/
theorem Running.Fits.congr {r : Running} {s t : State} (h : r.Fits s) (hcfg : t.cfg = s.cfg)
    (hdir : ∀ c, (t.ctx c).dir = (s.ctx c).dir) : r.Fits t := by
  unfold Running.Fits at h ⊢
  simpa only [hcfg, hdir] using h

theorem wellFormed_batch_pos {g : Config} {c : CtxIdx} {n : BitVec 7}
    (h : (Instr.absorb c n).wellFormed g = true ∨ (Instr.squeeze c n).wellFormed g = true) : 0 < n.toNat := by
  simp only [Instr.wellFormed, batchInRange, Bool.and_eq_true, decide_eq_true_eq] at h
  omega

/-! Where a position moves on to. -/

section
variable {s : State} {c : CtxIdx} {n : BitVec 7} {len : Word} {b j k : Nat}

theorem fits_absorbBlock (hwf : (Instr.absorb c n).wellFormed s.cfg = true) (hlen : len.toNat % blockSize = 0)
    (hdir : (s.ctx c).dir = .absorbing) : Running.Fits ⟨.absorb c n, len, absorbBlock len b⟩ s := by
  unfold absorbBlock
  split
  · next hb => exact ⟨hwf, hlen, hdir, hb, wellFormed_batch_pos (.inl hwf), by decide⟩
  · exact ⟨hwf, hlen, hdir, trivial⟩

theorem fits_absorbNext (h : Running.Fits ⟨.absorb c n, len, .merge b j k⟩ s) :
    Running.Fits ⟨.absorb c n, len, absorbNext n.toNat b j k⟩ s := by
  obtain ⟨hwf, hlen, hdir, hb, hj, hk⟩ := h
  unfold absorbNext
  split
  · next hnext => exact ⟨hwf, hlen, hdir, hb, hj, hnext⟩
  split
  · next hlane => exact ⟨hwf, hlen, hdir, hb, hlane, by decide⟩
  · exact ⟨hwf, hlen, hdir, hb⟩

theorem fits_squeezeBlock (hwf : (Instr.squeeze c n).wellFormed s.cfg = true) (hlen : len.toNat % blockSize = 0)
    (hdir : 0 < b → (s.ctx c).dir = .squeezing) : Running.Fits ⟨.squeeze c n, len, squeezeBlock len b⟩ s := by
  unfold squeezeBlock
  split
  · next hb => exact ⟨hwf, hlen, hb, hdir⟩
  · exact ⟨hwf, hlen, trivial⟩

theorem fits_squeezeNext (h : Running.Fits ⟨.squeeze c n, len, .emit b j k⟩ s) :
    Running.Fits ⟨.squeeze c n, len, squeezeNext len n.toNat b j k⟩ s := by
  obtain ⟨hwf, hlen, hb, hj, hk, hdir⟩ := h
  unfold squeezeNext
  split
  · next hnext => exact ⟨hwf, hlen, hb, hj, hnext, hdir⟩
  split
  · next hlane => exact ⟨hwf, hlen, hb, hlane, by decide, hdir⟩
  · exact fits_squeezeBlock hwf hlen fun _ => hdir

end

/-- A command whose checks pass starts at one of its micro-steps (60_exceptions.md R203, R204). -/
theorem fits_startPos {i : Instr} {s : State} (h : firstFailure (issueChecks i s) = none) :
    Running.Fits ⟨i, s.len, startPos i s.len⟩ s := by
  rw [firstFailure_none] at h
  cases i <;>
    simp only [issueChecks, checkContext, checkCell, checkLane, checkBatch, checkLength, checkDirection, List.forall_mem_cons,
      decide_eq_true_eq] at h
  case reset c => exact ⟨by simpa [Instr.wellFormed, CtxIdx.inRange] using h, rfl⟩
  case clone d e => exact ⟨by simpa [Instr.wellFormed, CtxIdx.inRange] using h, rfl⟩
  case permute c => exact ⟨by simpa [Instr.wellFormed, CtxIdx.inRange] using h, .inl rfl⟩
  case encode c k j v =>
    exact ⟨by simpa [Instr.wellFormed, CtxIdx.inRange, cellInRange, laneInRange, and_assoc] using h, rfl⟩
  case decode c k j =>
    exact ⟨by simpa [Instr.wellFormed, CtxIdx.inRange, cellInRange, laneInRange, and_assoc] using h, rfl⟩
  case absorb c n =>
    obtain ⟨hctx, hbatch, hlen, hdir, _⟩ := h
    exact fits_absorbBlock (by simp [Instr.wellFormed, CtxIdx.inRange, batchInRange, hctx, hbatch]) hlen hdir
  case squeeze c n =>
    obtain ⟨hctx, hbatch, hlen, _⟩ := h
    exact fits_squeezeBlock (by simp [Instr.wellFormed, CtxIdx.inRange, batchInRange, hctx, hbatch]) hlen (by simp)

/-- The directions are kept by a write that keeps its context's own. -/
theorem State.setCtx_dirs {s : State} {c : CtxIdx} {x : Context} (hx : x.dir = (s.ctx c).dir) (d : CtxIdx) :
    ((s.setCtx c x).ctx d).dir = (s.ctx d).dir := by
  rw [State.ctx_setCtx]
  split
  · next h => rw [hx, h]
  · rfl

theorem directionWrite_dir (c : CtxIdx) (b : Nat) (s : State) : ((directionWrite c b s).ctx c).dir = .squeezing := by
  simp [directionWrite]

theorem advanced_run {s : State} {r r' : Running} {p : Pos} (hrun : s.run = some r)
    (h : (s.run.map fun r => { r with pos := p }) = some r') : r' = { r with pos := p } := by
  rw [hrun] at h
  cases h
  rfl

/-- A micro-step of the latched command ends it or leaves it at another of its micro-steps (10_state.md R27, R41). -/
theorem MicroEffect.sequencerFits {s t : State} {r : Running} (h : MicroEffect s r r.cmd t) (hrun : s.run = some r)
    (hfits : r.Fits s) : t.SequencerFits := by
  obtain ⟨cmd, len, pos⟩ := r
  intro r' hr'
  dsimp only at h
  cases h with
  | stall => cases hrun.symm.trans hr'; exact hfits
  | finish | reset | clone | encode | decode => cases hr'
  | permute c =>
    cases advanced_run hrun hr'
    exact ⟨hfits.1, .inr rfl⟩
  | merge c n hpos =>
    cases hpos
    cases advanced_run hrun hr'
    exact (fits_absorbNext hfits).congr rfl (State.setCtx_dirs rfl)
  | absorbTransform c n hpos =>
    cases hpos
    cases advanced_run hrun hr'
    obtain ⟨hwf, hlen, hdir, _⟩ := hfits
    exact (fits_absorbBlock hwf hlen hdir).congr rfl (State.transform_dir s c)
  | squeezeTransform c n hpos hdir =>
    cases hpos
    cases advanced_run hrun hr'
    obtain ⟨hwf, hlen, hb, _⟩ := hfits
    exact Running.Fits.congr (s := s) ⟨hwf, hlen, hb, hdir⟩ rfl (State.transform_dir s c)
  | direction c n hpos =>
    cases advanced_run hrun hr'
    obtain ⟨hwf, hlen, hat⟩ := hfits
    rcases hpos with hpos | hpos
    · cases hpos
      exact ⟨hwf, hlen, hat.1, wellFormed_batch_pos (.inr hwf), by decide, directionWrite_dir c _ s⟩
    · cases hpos
      exact ⟨hwf, hlen, hat.1, wellFormed_batch_pos (.inr hwf), by decide, directionWrite_dir c _ s⟩
  | emit c n hpos =>
    cases hpos
    cases advanced_run hrun hr'
    exact (fits_squeezeNext hfits).congr rfl fun _ => rfl

end Sys2Proof.Machine
end

section
/-! PROOFS. The invariant of the machine: at reset, and after every step (10_state.md R22, R27, R50; 20_memory.md R70; 40_codec.md R111;
60_exceptions.md R204 to R206). -/

namespace Sys2Proof.Machine

/-! The invariant part by part, over a micro-step. -/

/-- Zero is a digit's code: RESULT at reset is one (40_codec.md R111). -/
theorem sext32_codeOf_zero : sext32 (codeOf .zero) = 0#32 := by decide

/-- A digit is written into a lane the block has: ENCODE's lane was checked, ABSORB's lies in its batch. -/
theorem Running.Fits.laneWritten_lt {r : Running} {s : State} {j : Nat} (h : r.Fits s)
    (hj : laneWritten r.cmd r.pos = some j) : j < s.cfg.lanes := by
  obtain ⟨cmd, len, pos⟩ := r
  obtain ⟨hwf, hat⟩ := h
  cases cmd with
  | encode c k lane v =>
    cases hj
    simp only [Instr.wellFormed, laneInRange, Bool.and_eq_true, decide_eq_true_eq] at hwf
    exact hwf.2
  | absorb c n =>
    cases pos with
    | merge b lane k =>
      cases hj
      obtain ⟨_, _, _, hlane, _⟩ := hat
      simp only [Instr.wellFormed, batchInRange, Bool.and_eq_true, decide_eq_true_eq] at hwf
      exact lt_of_lt_of_le hlane hwf.2.2
    | _ => cases hj
  | _ => cases hj

theorem MicroEffect.fitsWidth {s t : State} {r : Running} (h : MicroEffect s r r.cmd t) (hfits : r.Fits s)
    (hs : s.FitsWidth) : t.FitsWidth := by
  have hcells : t.EveryCell (Cell.FitsWidth s.cfg) :=
    h.everyCell (Cell.zero_fitsWidth _) (sbox_fitsWidth _) (fun _ _ d hj hx => enc_fitsWidth hx (hfits.laneWritten_lt hj) d) hs
  intro c i
  rw [h.sameOutside.1]
  exact hcells c i

theorem MicroEffect.fifosBounded {s t : State} {r : Running} {i : Instr} (h : MicroEffect s r i t) (hs : s.FifosBounded) :
    t.FifosBounded := by
  obtain ⟨hin, hout⟩ := hs
  unfold State.FifosBounded
  rw [h.sameOutside.1]
  constructor
  · rcases h.inFifo with he | ⟨_, v, he⟩
    · rwa [he]
    · rw [he, List.length_cons] at hin
      omega
  · rcases h.outFifo with he | ⟨_, hroom, d, he⟩
    · rwa [he]
    · rw [he, List.length_append]
      exact hroom

theorem MicroEffect.codesOnly {s t : State} {r : Running} {i : Instr} (h : MicroEffect s r i t) (hs : s.CodesOnly) :
    t.CodesOnly := by
  obtain ⟨hout, hresult⟩ := hs
  constructor
  · rcases h.outFifo with he | ⟨_, _, d, he⟩ <;> rw [he]
    · exact hout
    · intro v hv
      rcases List.mem_append.mp hv with hv | hv
      · exact hout v hv
      · exact ⟨d, List.mem_singleton.mp hv⟩
  · rcases h.result with he | ⟨c, k, j, _, _, _, he⟩
    · rwa [he]
    · exact ⟨_, he⟩

theorem MicroEffect.haltConsistent {s t : State} {r : Running} {i : Instr} (h : MicroEffect s r i t) (hfatal : s.fatal = false)
    (hs : s.HaltConsistent) : t.HaltConsistent := by
  obtain ⟨hkeep, herr⟩ := h.status
  have hne : s.err ≠ .absorbAfterSqueeze := fun he => by simp [hs.2.mpr he] at hfatal
  have htne : t.err ≠ .absorbAfterSqueeze := by
    rcases herr with he | ⟨he, _⟩
    · rwa [he]
    · rw [he]
      decide
  rw [hfatal] at hkeep
  simp [State.HaltConsistent, hkeep, htne]

/-- The context a well-formed command writes exists (60_exceptions.md R200). -/
theorem target_lt {g : Config} {i : Instr} {c : CtxIdx} (hwf : i.wellFormed g = true) (hc : commandTarget i = some c) :
    c.toNat < g.ctxCount := by
  cases i <;> simp_all [Instr.wellFormed, CtxIdx.inRange, commandTarget]

theorem MicroEffect.spareSlotsZero {s t : State} {r : Running} (h : MicroEffect s r r.cmd t) (hfits : r.Fits s)
    (hs : s.SpareSlotsZero) : t.SpareSlotsZero := by
  intro c hc
  rw [h.sameOutside.1] at hc
  have hother : commandTarget r.cmd ≠ some c := fun htarget => absurd (target_lt hfits.1 htarget) (Nat.not_lt.mpr hc)
  rw [h.ctx_other hother]
  exact hs c hc

theorem MicroEffect.inv {s t : State} {r : Running} (h : MicroEffect s r r.cmd t) (hfatal : s.fatal = false)
    (hrun : s.run = some r) (hs : s.Inv) : t.Inv where
  validCfg := h.sameOutside.1 ▸ hs.validCfg
  exclusive := h.exclusive hs.exclusive
  fitsWidth := h.fitsWidth (hs.sequencerFits r hrun) hs.fitsWidth
  fifosBounded := h.fifosBounded hs.fifosBounded
  codesOnly := h.codesOnly hs.codesOnly
  haltConsistent := h.haltConsistent hfatal hs.haltConsistent
  spareSlotsZero := h.spareSlotsZero (hs.sequencerFits r hrun) hs.spareSlotsZero
  sequencerFits := h.sequencerFits hrun (hs.sequencerFits r hrun)

/-! The invariant over the other effects of a step. -/

theorem AccessFrame.inv {s t : State} (h : AccessFrame s t) (hs : s.Inv) : t.Inv where
  validCfg := h.cfg ▸ hs.validCfg
  exclusive := State.EveryCell.of_ctxs hs.exclusive h.ctxs
  fitsWidth := by
    unfold State.FitsWidth
    rw [h.cfg]
    exact State.EveryCell.of_ctxs hs.fitsWidth h.ctxs
  fifosBounded := by
    obtain ⟨hin, hout⟩ := hs.fifosBounded
    unfold State.FifosBounded
    rw [h.cfg]
    exact ⟨h.inFifo.trans (max_le hin le_rfl), h.outFifo.length_le.trans hout⟩
  codesOnly := by
    obtain ⟨hout, hresult⟩ := hs.codesOnly
    exact ⟨fun v hv => hout v (h.outFifo.subset hv), h.result ▸ hresult⟩
  haltConsistent := by
    have hhalt := hs.haltConsistent
    unfold State.HaltConsistent at hhalt ⊢
    rwa [h.fatal, h.err, h.run]
  spareSlotsZero := fun c hc => by
    rw [h.cfg] at hc
    rw [h.ctx]
    exact hs.spareSlotsZero c hc
  sequencerFits := fun r hr => by
    rw [h.run] at hr
    exact (hs.sequencerFits r hr).congr h.cfg fun c => by rw [h.ctx]

/-- Raising a code at Idle: the one fatal code is the one that halts (60_exceptions.md R202, R205). -/
theorem inv_raise {s : State} (e : ErrCode) (hfatal : s.fatal = false) (hrun : s.run = none) (hs : s.Inv) : (s.raise e).Inv where
  validCfg := hs.validCfg
  exclusive := hs.exclusive
  fitsWidth := hs.fitsWidth
  fifosBounded := hs.fifosBounded
  codesOnly := hs.codesOnly
  haltConsistent := ⟨fun _ => hrun, by cases e <;> simp [State.raise, hfatal, ErrCode.isFatal]⟩
  spareSlotsZero := hs.spareSlotsZero
  sequencerFits := fun r hr => absurd (hrun.symm.trans hr) (by simp)

/-- A passed issue latches a command at its first micro-step (10_state.md R40). -/
theorem inv_issued {s : State} {i : Instr} (hfatal : s.fatal = false) (hchecks : firstFailure (issueChecks i s) = none)
    (hs : s.Inv) : ({ s with run := some { cmd := i, len := s.len, pos := startPos i s.len } } : State).Inv where
  validCfg := hs.validCfg
  exclusive := hs.exclusive
  fitsWidth := hs.fitsWidth
  fifosBounded := hs.fifosBounded
  codesOnly := hs.codesOnly
  haltConsistent := ⟨fun h => by simp [hfatal] at h, hs.haltConsistent.2⟩
  spareSlotsZero := hs.spareSlotsZero
  sequencerFits := fun r hr => by
    cases hr
    exact (fits_startPos hchecks).congr rfl fun _ => rfl

/-- A step of a command, the latched one at Busy, keeps the invariant. -/
theorem exec_inv {i : Instr} {s t : State} (h : exec i s = .next t) (hcmd : ∀ r, s.run = some r → r.cmd = i) (hs : s.Inv) :
    t.Inv := by
  rcases exec_effect h with ⟨_, rfl⟩ | ⟨hfatal, hrun, e, rfl⟩ | ⟨hfatal, _, hchecks, rfl⟩ | ⟨hfatal, r, hrun, hmicro⟩
  · exact hs
  · exact inv_raise e hfatal hrun hs
  · exact inv_issued hfatal hchecks hs
  · cases hcmd r hrun
    exact hmicro.inv hfatal hrun hs

/-- Settles O52: at reset every cell and every context is zero, the FIFOs are empty, and no command runs. -/
theorem resetMeetsInvariant : Obligations.ResetMeetsInvariant := fun g hvalid =>
  { validCfg := hvalid
    exclusive := resetOf_everyCell Cell.zero_exclusive g
    fitsWidth := resetOf_everyCell (Cell.zero_fitsWidth g) g
    fifosBounded := ⟨Nat.zero_le _, Nat.zero_le _⟩
    codesOnly := ⟨fun _ hv => absurd hv List.not_mem_nil, .zero, sext32_codeOf_zero.symm⟩
    haltConsistent := ⟨fun _ => rfl, by simp [State.resetOf]⟩
    spareSlotsZero := fun c _ => resetOf_ctx g c
    sequencerFits := fun _ hr => absurd hr (by simp [State.resetOf]) }

/-- Hardware reset is the reset state but for the world around the block. -/
theorem inv_hardReset {s : State} (hvalid : s.cfg.Valid) : s.hardReset.Inv :=
  (AccessFrame.of_registers (State.resetOf s.cfg) _ _ _ _ _ _ _ _).inv (resetMeetsInvariant s.cfg hvalid)

/-- Settles O53: every effect a step can have keeps the invariant. -/
theorem stepKeepsInvariant : Obligations.StepKeepsInvariant := by
  intro s t hs h
  rcases step_effect h with
    ⟨_, u, hframe, rfl⟩ | hframe | ⟨hfatal, hrun, u, hframe, rfl⟩ | ⟨_, u, i, hframe, hexec, hcmd⟩
  · exact inv_hardReset (hframe.inv hs).validCfg
  · exact hframe.inv hs
  · exact inv_raise _ (hframe.fatal.trans hfatal) (hframe.run.trans hrun) (hframe.inv hs)
  · exact exec_inv hexec (hframe.run ▸ hcmd) (hframe.inv hs)

end Sys2Proof.Machine
end

section
/-! PROOFS. A command from its bytes, the accesses outside the interface, and the interleaving of the two agents (20_memory.md R61 to R64,
R76; 10_state.md R41; 30_encoding.md R90). -/

namespace Sys2Proof.Machine

/-- Settles O5: the four bytes are taken off the front and put together again as the word, whatever it decodes to. -/
theorem bytesDecodeAsTheirWord : Obligations.BytesDecodeAsTheirWord := by
  intro w rest
  cases hw : decode w <;>
    simp only [bytesOfWord, List.cons_append, List.nil_append, decodeBytes, wordOfBytes_extract, hw]

/-! An access stops by its width, its alignment or its offset, in this order, or answers a next state. -/

theorem accessStop_width {off size : Nat} (h : size ≠ 4) : accessStop off size = some (.refused (.accessWidth size)) :=
  if_pos h

theorem accessStop_misaligned {off : Nat} (h : off % 4 ≠ 0) : accessStop off 4 = some (.refused (.misaligned off)) := by
  simp [accessStop, h]

theorem accessStop_outside {off : Nat} (ha : off % 4 = 0) (hw : 64 ≤ off) :
    accessStop off 4 = some (.fault (.outsideWindow off)) := by
  simp [accessStop, ha, hw]

/-- What stops an access stops a read and a write of it alike. -/
theorem host_stopped {off size : Nat} {o : Host.Outcome State Fault Refusal} (h : accessStop off size = some o) (s : State)
    (v : Word) : hostRead s off size = o ∧ hostWrite s off size v = o := by
  simp [hostRead, hostWrite, h]

/-- A step of a command neither faults nor is refused: halted, at Idle and at Busy it answers a next state (60_exceptions.md R204). -/
theorem exec_answers (i : Instr) (s : State) : ∃ t, exec i s = .next t := by
  cases hfatal : s.fatal with
  | true => exact ⟨_, (exec_eq_runCommand i s).trans (runCommand_halted hfatal)⟩
  | false =>
    cases hrun : s.run with
    | none => exact ⟨_, exec_idle hfatal hrun⟩
    | some r => exact ⟨_, exec_busy hfatal hrun⟩

theorem commandWrite_answers (s : State) (w : Word) : ∃ t, commandWrite s w = .next t := by
  cases hrun : s.run with
  | some r => exact ⟨_, commandWrite_busy hrun⟩
  | none =>
    cases hw : decode w with
    | ok i =>
      rw [commandWrite_decoded hrun hw]
      exact exec_answers i s
    | error e => exact ⟨_, commandWrite_illegal hrun hw⟩

theorem writeCsr_answers (s : State) (v : Word) (r : Csr) : ∃ t, writeCsr s v r = .next t := by
  cases hfatal : s.fatal with
  | true => exact ⟨s, writeCsr_halted hfatal⟩
  | false =>
    cases r with
    | cmd =>
      rw [writeCsr_cmd hfatal]
      exact commandWrite_answers s v
    | len => exact ⟨_, writeCsr_len hfatal⟩
    | status => exact ⟨_, writeCsr_status hfatal⟩
    | din => exact ⟨_, writeCsr_din hfatal⟩
    | _ => exact ⟨s, writeCsr_not_writable rfl⟩

/-- Settles O49: the three ways to stop, and an access of the window is an access to a register, which always answers. -/
theorem accessesOutsideTheInterfaceStop : Obligations.AccessesOutsideTheInterfaceStop := by
  intro s off size v
  refine ⟨fun hsize => host_stopped (accessStop_width hsize) s v, fun halign => host_stopped (accessStop_misaligned halign) s v,
    fun ha hw => host_stopped (accessStop_outside ha hw) s v, fun ha hw => ⟨⟨_, hostRead_aligned ha hw⟩, ?_⟩⟩
  rw [hostWrite_aligned ha hw]
  exact writeCsr_answers s v _

/-! Each agent's own step. -/

theorem coreStep_running {s : State} {r : Running} (h : s.run = some r) : coreStep s = exec r.cmd s := by
  simp [coreStep, h]

theorem hostStep_oldest {s : State} {x : HostInput} {rest : List HostInput} (h : s.inputs = x :: rest) :
    hostStep s = hostInput { s with inputs := rest } x := by
  simp [hostStep, h]

theorem State.hostEnabled_of_ne_nil {s : State} (h : s.inputs ≠ []) : s.hostEnabled = true := by
  simp [State.hostEnabled, h]

theorem State.hostEnabled_of_cons {s : State} {x : HostInput} {rest : List HostInput} (h : s.inputs = x :: rest) :
    s.hostEnabled = true :=
  State.hostEnabled_of_ne_nil (h ▸ List.cons_ne_nil x rest)

theorem State.hostEnabled_of_nil {s : State} (h : s.inputs = []) : s.hostEnabled = false := by
  simp [State.hostEnabled, h]

/-- The step an agent makes when it is the one that moves (20_memory.md R75). -/
def agentStep : Agent → State → Host.Outcome State Fault Refusal
  | .core => coreStep
  | .host => hostStep

/-- A step is that of the agent that moves, once the choice has been taken. -/
theorem step_of_mover {s : State} {a : Agent} (h : s.mover = some a) : step s = agentStep a s.afterChoice := by
  cases a <;> simp [step, h, agentStep]

/-! At most one agent has a step. -/

theorem step_core_alone {s : State} (hcore : s.coreEnabled = true) (hhost : s.hostEnabled = false) : step s = coreStep s := by
  rw [step_of_mover (a := .core) (by simp [State.mover, hcore, hhost]),
    State.afterChoice_closed (by simp [State.choiceOpen, hhost])]
  rfl

theorem step_host_alone {s : State} (hcore : s.coreEnabled = false) (hhost : s.hostEnabled = true) : step s = hostStep s := by
  rw [step_of_mover (a := .host) (by simp [State.mover, hcore, hhost]),
    State.afterChoice_closed (by simp [State.choiceOpen, hcore])]
  rfl

theorem step_neither {s : State} (hcore : s.coreEnabled = false) (hhost : s.hostEnabled = false) : step s = .next s := by
  have hmover : s.mover = none := by simp [State.mover, hcore, hhost]
  simp [step, hmover]

/-! Both have one: an entry of the schedule says whose turn it is, or past its end a free value. -/

theorem State.mover_both {s : State} (hcore : s.coreEnabled = true) (hhost : s.hostEnabled = true) : s.mover = some s.nextTurn := by
  simp [State.mover, hcore, hhost]

/-- The schedule's next entry says who moves, and is used up. -/
theorem step_scheduled {s : State} {a : Agent} {ts : List Agent} (hcore : s.coreEnabled = true) (hhost : s.hostEnabled = true)
    (hturns : s.turns = a :: ts) : step s = agentStep a { s with turns := ts, clock := s.clock + 1 } := by
  have hturn : s.nextTurn = a := by simp [State.nextTurn, hturns]
  have hchoice : s.afterChoice = { s with turns := ts, clock := s.clock + 1 } := by
    simp [State.afterChoice, State.choiceOpen, hcore, hhost, hturns]
  rw [step_of_mover (State.mover_both hcore hhost), hturn, hchoice]

/-- Past the schedule's end the free value of this choice says who moves, and the choice is counted. -/
theorem step_unscheduled {s : State} (hcore : s.coreEnabled = true) (hhost : s.hostEnabled = true) (hturns : s.turns = []) :
    step s = agentStep (Config.freeTurn s.clock) { s with clock := s.clock + 1 } := by
  have hturn : s.nextTurn = Config.freeTurn s.clock := by simp [State.nextTurn, hturns]
  have hchoice : s.afterChoice = { s with clock := s.clock + 1 } := by
    simp [State.afterChoice, State.choiceOpen, hcore, hhost, hturns]
  rw [step_of_mover (State.mover_both hcore hhost), hturn, hchoice]

/-- Settles O51: by which agents have a step, and where both have one by whether the schedule says whose turn it is. -/
theorem stepIsOneAgentsStep : Obligations.StepIsOneAgentsStep := by
  intro s
  refine ⟨fun r hrun hcore hinputs => ?_, fun x rest hcore hinputs => ?_, fun r ts hrun hcore hinputs hturns => ?_,
    fun x rest ts hcore hinputs hturns => ?_, fun r x rest hrun hcore hinputs hturns => ?_,
    fun hcore hinputs => step_neither hcore (State.hostEnabled_of_nil hinputs)⟩
  · exact (step_core_alone hcore (State.hostEnabled_of_nil hinputs)).trans (coreStep_running hrun)
  · exact (step_host_alone hcore (State.hostEnabled_of_cons hinputs)).trans (hostStep_oldest hinputs)
  · exact (step_scheduled hcore (State.hostEnabled_of_ne_nil hinputs) hturns).trans (coreStep_running hrun)
  · exact (step_scheduled hcore (State.hostEnabled_of_cons hinputs) hturns).trans (hostStep_oldest hinputs)
  · rw [step_unscheduled hcore (State.hostEnabled_of_cons hinputs) hturns]
    cases Config.freeTurn s.clock with
    | core => exact coreStep_running hrun
    | host => exact hostStep_oldest hinputs

end Sys2Proof.Machine
end

section
/-! PROOFS. Decoding and encoding are inverse to each other, and both agree with the opcode table (30_encoding.md R92 to R98, R101). -/

namespace Sys2Proof

/-! Decoding is the reading of the operands and the check of the reserved bits. -/

theorem decode_eq_ok {w m : Word} {i : Instr} (hi : operands w = some i) (hm : mustBeZero (fieldOp w) = some m)
    (hzero : w &&& m = 0#32) : decode w = .ok i := by
  simp [decode, hi, hm, hzero]

/-- A decoded word has an assigned opcode, and its reserved bits are 0 (R96, R97). -/
theorem of_decode_eq_ok {w : Word} {i : Instr} (h : decode w = .ok i) :
    operands w = some i ∧ ∃ m, mustBeZero (fieldOp w) = some m ∧ w &&& m = 0#32 := by
  unfold decode at h
  split at h
  next j m hj hm =>
    split at h
    · next hzero => cases h; exact ⟨hj, m, hm, hzero⟩
    · cases h
  next => cases h

/-- The opcodes that have operands are those that have a mask (R91, R96). -/
theorem operands_of_mustBeZero {w m : Word} (h : mustBeZero (fieldOp w) = some m) : ∃ i, operands w = some i := by
  unfold mustBeZero at h
  unfold operands
  split at h
  case h_8 => cases h
  all_goals exact ⟨_, rfl⟩

/-! The opcode table: a row fixes the opcode and the reserved bits, and nothing else. -/

theorem opcodeTable_mask_op : ∀ r ∈ opcodeTable, fieldOp r.mask = 0xF#4 := by decide

theorem opcodeTable_reserved : ∀ r ∈ opcodeTable,
    mustBeZero (fieldOp r.pattern) = some (r.mask &&& 0xFFFFFFF0#32) ∧ r.pattern &&& 0xFFFFFFF0#32 = 0#32 := by decide

theorem opcodeTable_op_injective : ∀ r ∈ opcodeTable, ∀ q ∈ opcodeTable, fieldOp r.pattern = fieldOp q.pattern → r = q := by
  decide

theorem Row.fieldOp_of_matches {r : Row} {w : Word} (hr : r ∈ opcodeTable) (h : r.matches w = true) :
    fieldOp w = fieldOp r.pattern := by
  have hpat : w &&& r.mask = r.pattern := beq_iff_eq.mp h
  have hmask : r.mask.extractLsb' 0 4 = BitVec.allOnes 4 := opcodeTable_mask_op r hr
  rw [← hpat, fieldOp, fieldOp, BitVec.extractLsb'_and, hmask, BitVec.and_allOnes]

theorem Row.reserved_of_matches {r : Row} {w : Word} (hr : r ∈ opcodeTable) (h : r.matches w = true) :
    ∃ m, mustBeZero (fieldOp w) = some m ∧ w &&& m = 0#32 := by
  have hpat : w &&& r.mask = r.pattern := beq_iff_eq.mp h
  obtain ⟨hm, hzero⟩ := opcodeTable_reserved r hr
  exact ⟨_, (r.fieldOp_of_matches hr h).symm ▸ hm, by rw [← BitVec.and_assoc, hpat, hzero]⟩

/-- Every command's word is in the table, under the command's mnemonic. -/
theorem encode_tableRow (i : Instr) : Laws.TableRow.Statement i := by
  cases i with
  | reset c => exact Laws.TableRow.reset c
  | clone d s => exact Laws.TableRow.clone d s
  | absorb c b => exact Laws.TableRow.absorb c b
  | squeeze c b => exact Laws.TableRow.squeeze c b
  | permute c => exact Laws.TableRow.permute c
  | encode c x j v => exact Laws.TableRow.encode c x j v
  | decode c x j => exact Laws.TableRow.decode c x j

/-! Encoding, then decoding. -/

/-- The fields of an encoded command stand apart from each other, so each is read back as it was placed. -/
theorem operands_encode (i : Instr) : operands (encode i) = some i := by
  cases i <;>
    simp [operands, encode, fieldOp, fieldCtx, fieldSrc, fieldBatch, fieldCell, fieldLane, fieldDigit, BitVec.extractLsb'_or]

/-- Settles O1: the operands are read back, and the word's row of the table says that its reserved bits are 0. -/
theorem decodeOfEncode : Obligations.DecodeOfEncode := by
  intro i
  obtain ⟨r, hr, -, hmatch⟩ := encode_tableRow i
  obtain ⟨m, hm, hzero⟩ := r.reserved_of_matches hr hmatch
  exact decode_eq_ok (operands_encode i) hm hzero

/-! Decoding, then encoding. -/

/-- A field of a word put back in its place is the word's bits there. -/
theorem place_extract (w : Word) (lo n : Nat) : place (w.extractLsb' lo n) lo = w &&& place (BitVec.allOnes n) lo := by
  apply BitVec.eq_of_getLsbD_eq
  intro k hk
  rw [BitVec.getLsbD_and, place_getLsbD, place_getLsbD, BitVec.getLsbD_extractLsb', BitVec.getLsbD_allOnes]
  by_cases hlo : lo ≤ k
  · simp [hk, hlo, Bool.and_comm]
  · simp [hlo]

/-- An assigned opcode put in its place is the word's bits there. -/
theorem place_op {w : Word} {n : Nat} (h : (fieldOp w).toNat = n) :
    place (BitVec.ofNat 4 n) 0 = w &&& place (BitVec.allOnes 4) 0 := by
  rw [← h, BitVec.ofNat_toNat, BitVec.setWidth_eq]
  exact place_extract w 0 4

/-- Reading a word's operands and encoding them again loses exactly the bits that must be zero (R92 to R96). -/
theorem encode_of_operands {w m : Word} {i : Instr} (hi : operands w = some i) (hm : mustBeZero (fieldOp w) = some m) :
    encode i = w &&& ~~~m := by
  unfold operands at hi
  split at hi
  case h_8 => cases hi
  all_goals
    next hop =>
    simp only [mustBeZero, hop, Option.some.injEq] at hm
    cases hi
    simp only [encode, place_op hop, fieldCtx, fieldSrc, fieldBatch, fieldCell, fieldLane, fieldDigit, place_extract,
      ← BitVec.and_or_distrib_left]
    subst hm
    rfl

/-- Settles O2: the bits that the operands do not hold are 0 in a word that decodes. -/
theorem encodeOfDecode : Obligations.EncodeOfDecode := by
  intro w i h
  obtain ⟨hi, m, hm, hzero⟩ := of_decode_eq_ok h
  calc encode i = w &&& ~~~m := encode_of_operands hi hm
    _ = w &&& m ||| w &&& ~~~m := by rw [hzero, BitVec.zero_or]
    _ = w := by rw [← BitVec.and_or_distrib_left, BitVec.or_not_self, BitVec.and_allOnes]

theorem decode_eq_ok_iff {w : Word} {i : Instr} : decode w = .ok i ↔ encode i = w :=
  ⟨encodeOfDecode w i, fun h => h ▸ decodeOfEncode i⟩

/-- Settles O3: a word that decodes is its command's, which has a row; a word of a row decodes; a row is known by its opcode. -/
theorem decodingIsTheOpcodeTable : Obligations.DecodingIsTheOpcodeTable := by
  refine ⟨fun w => ?_, fun w r q hr hq hrw hqw => ?_⟩
  · cases hw : decode w with
    | ok i =>
      obtain ⟨r, hr, hmnemonic, hmatch⟩ := encode_tableRow i
      exact .inl ⟨i, r, rfl, hr, encodeOfDecode w i hw ▸ hmatch, hmnemonic⟩
    | error e =>
      refine .inr ⟨e, rfl, fun r hr => Bool.eq_false_iff.mpr fun hmatch => ?_⟩
      obtain ⟨m, hm, hzero⟩ := r.reserved_of_matches hr hmatch
      obtain ⟨i, hi⟩ := operands_of_mustBeZero hm
      cases hw.symm.trans (decode_eq_ok hi hm hzero)
  · exact opcodeTable_op_injective r hr q hq ((r.fieldOp_of_matches hr hrw).symm.trans (q.fieldOp_of_matches hq hqw))

/-- Settles O4: each worked word is the word of its command. -/
theorem workedWordsDecode : Obligations.WorkedWordsDecode := by
  simp only [Obligations.WorkedWordsDecode, decode_eq_ok_iff]
  decide

end Sys2Proof
end

section
/-! PROOFS. The codec functions: what `enc` and `dec` do to each lane, their laws and their branch-free forms (40_codec.md R110 to R114,
R120). -/

namespace Sys2Proof.Machine

/-- Settles O6: by the two tests of `normOf`. -/
theorem normalisationTable : Obligations.NormalisationTable :=
  ⟨rfl, rfl, fun v hpos hneg => by simp [normOf, hpos, hneg]⟩

/-! Bit by bit. -/

theorem enc_getLsbD_self (x : Cell) {j : Nat} (hj : j < 64) (d : Digit) :
    (enc x j d).p.getLsbD j = decide (d = .pos) ∧ (enc x j d).n.getLsbD j = decide (d = .neg) := by
  simpa using enc_getLsbD x j d hj

/-- Every other lane stays; past the word's end there is nothing to change. -/
theorem enc_sameLane (x : Cell) {j k : Nat} (d : Digit) (h : k ≠ j) : SameLane k (enc x j d) x := by
  by_cases hk : k < 64
  · simpa only [if_neg h, SameLane] using enc_getLsbD x j d hk
  · simp [SameLane, BitVec.getLsbD_of_ge _ k (Nat.not_lt.mp hk)]

/-- Settles O7: lane j and the other lanes of `enc`, and the two tests of `dec` in their order. -/
theorem codecFunctions : Obligations.CodecFunctions := by
  intro x j hj
  refine ⟨fun d k => ?_, fun hp => by simp [dec, hp], fun hp hn => by simp [dec, hp, hn], fun hp hn => by simp [dec, hp, hn]⟩
  by_cases hk : k = j
  · simpa only [hk, if_true] using enc_getLsbD_self x hj d
  · simpa only [if_neg hk, SameLane] using enc_sameLane x d hk

/-! The laws. -/

theorem dec_enc_self (x : Cell) {j : Nat} (hj : j < 64) (d : Digit) : dec (enc x j d) j = d := by
  obtain ⟨hp, hn⟩ := enc_getLsbD_self x hj d
  unfold dec
  rw [hp, hn]
  cases d <;> rfl

/-- `dec` reads its lane and nothing else. -/
theorem dec_congr {x y : Cell} {k : Nat} (h : SameLane k x y) : dec x k = dec y k := by
  obtain ⟨hp, hn⟩ := h
  unfold dec
  rw [hp, hn]

/-- Settles O8: no digit has both planes set. -/
theorem codecLaws : Obligations.CodecLaws := by
  intro x j d hj
  refine ⟨dec_enc_self x hj d, fun k hk => dec_congr (enc_sameLane x d hk), ?_⟩
  obtain ⟨hp, hn⟩ := enc_getLsbD_self x hj d
  rw [BitVec.getLsbD_and, hp, hn]
  cases d <;> rfl

/-! The branch-free forms. -/

/-- Setting bits is clearing them first and then setting them. -/
theorem or_eq_clear_or (a m : Plane) : a ||| m = (a &&& ~~~m) ||| m := by
  ext k hk
  cases hm : m[k] <;> simp [hm]

/-- Settles O9: each digit either sets the lane's bit of a plane or clears it; `dec` by the lane's two bits. -/
theorem branchFreeForms : Obligations.BranchFreeForms := by
  refine ⟨fun x j d => ?_, fun x j => ?_⟩
  · have hset (a : Plane) : a ||| laneMask j = (a &&& ~~~laneMask j) ||| 1#64 <<< j := or_eq_clear_or a _
    have hclear (a : Plane) : a &&& ~~~laneMask j = (a &&& ~~~laneMask j) ||| 0#64 <<< j := by simp
    cases d with
    | pos => exact ⟨hset _, hclear _⟩
    | neg => exact ⟨hclear _, hset _⟩
    | zero => exact ⟨hclear _, hclear _⟩
  · unfold dec
    cases x.p.getLsbD j <;> cases x.n.getLsbD j <;> rfl

end Sys2Proof.Machine
end

section
/-! PROOFS. Issue as the check table gives it, the words with a reserved bit set, and the codec commands ENCODE and DECODE (60_exceptions.md
R203; 30_encoding.md R96; 40_codec.md R115, R118). -/

namespace Sys2Proof.Machine

/-! Each check of the model is a row of the check table: it fails under the row's condition. -/

theorem firstFailure_cons_of_iff {b : Bool} {fails : Prop} [Decidable fails] (h : b = true ↔ ¬fails) (e : ErrCode)
    (l : List Check) : firstFailure ((b, e) :: l) = if fails then some e else firstFailure l := by
  cases b with
  | true => rw [if_neg (h.mp rfl), firstFailure]
  | false => rw [if_pos (by simpa using h), firstFailure]

section
variable (g : Config) (l : List Check)

theorem firstFailure_checkContext (c : CtxIdx) :
    firstFailure (checkContext g c :: l) = if g.ctxCount ≤ c.toNat then some .invalidContext else firstFailure l :=
  firstFailure_cons_of_iff (by simp) _ l

theorem firstFailure_checkCell (i : BitVec 10) :
    firstFailure (checkCell i :: l) = if 729 ≤ i.toNat then some .invalidCell else firstFailure l :=
  firstFailure_cons_of_iff (by simp) _ l

theorem firstFailure_checkLane (j : BitVec 6) :
    firstFailure (checkLane g j :: l) = if g.lanes ≤ j.toNat then some .invalidLane else firstFailure l :=
  firstFailure_cons_of_iff (by simp) _ l

theorem firstFailure_checkBatch (b : BitVec 7) :
    firstFailure (checkBatch g b :: l) =
      if b.toNat = 0 ∨ g.lanes < b.toNat then some .invalidBatchSize else firstFailure l :=
  firstFailure_cons_of_iff (by rw [decide_eq_true_eq]; omega) _ l

theorem firstFailure_checkLength (len : Word) (e : ErrCode) :
    firstFailure (checkLength len e :: l) = if len.toNat % 243 ≠ 0 then some e else firstFailure l :=
  firstFailure_cons_of_iff (by simp) _ l

theorem firstFailure_checkDirection (d : Direction) :
    firstFailure (checkDirection d :: l) = if d = .squeezing then some .absorbAfterSqueeze else firstFailure l :=
  firstFailure_cons_of_iff (by cases d <;> decide) _ l

end

/-- The checks made at issue are the check table (60_exceptions.md R203). -/
theorem firstFailure_issueChecks (i : Instr) (s : State) : firstFailure (issueChecks i s) = issueError i s := by
  cases i <;>
    simp only [issueChecks, issueError, firstFailure_checkContext, firstFailure_checkCell, firstFailure_checkLane,
      firstFailure_checkBatch, firstFailure_checkLength, firstFailure_checkDirection, firstFailure]

/-- A code that is not fatal is written to ERR and nothing else happens (60_exceptions.md R202). -/
theorem raise_of_not_fatal {e : ErrCode} (h : e.isFatal = false) (s : State) : s.raise e = { s with err := e } := by
  simp [State.raise, h]

/-- A command that the check table rejects ends at its issue, with the table's code in ERR. -/
theorem exec_rejected {i : Instr} {s : State} {e : ErrCode} (hfatal : s.fatal = false) (hrun : s.run = none)
    (hcode : e.isFatal = false) (h : issueError i s = some e) : exec i s = .next { s with err := e } := by
  rw [exec_idle hfatal hrun, issue_failed ((firstFailure_issueChecks i s).trans h), raise_of_not_fatal hcode]

/-- A command that the check table passes is latched with LEN at its issue. -/
theorem exec_issued {i : Instr} {s : State} (hfatal : s.fatal = false) (hrun : s.run = none) (h : issueError i s = none) :
    exec i s = .next { s with run := some { cmd := i, len := s.len, pos := startPos i s.len } } := by
  rw [exec_idle hfatal hrun, issue_passed ((firstFailure_issueChecks i s).trans h)]

/-- A word with a 1 under its opcode's mask is written to CMD as an illegal command (30_encoding.md R96). -/
theorem reservedBitsIllegal_of_mask {op : BitVec 4} {mask : Word} {s : State} (hfatal : s.fatal = false) (hrun : s.run = none)
    (hmask : mustBeZero op = some mask) : ReservedBitsIllegal op mask s := by
  intro w hop hbits
  rw [← hop] at hmask
  cases hw : decode w with
  | ok i =>
    obtain ⟨-, m, hm, hzero⟩ := of_decode_eq_ok hw
    cases hmask.symm.trans hm
    exact absurd hzero hbits
  | error e => rw [hostWrite_cmd hfatal, commandWrite_illegal hrun hw, raise_illegalCommand]

/-! ENCODE and DECODE. -/

/-- The issue of a command with DECODE's rows of the check table and one micro-step, as ENCODE and DECODE are (40_codec.md R115, R118). -/
theorem cellCommand_issue {i : Instr} {c : CtxIdx} {k : BitVec 10} {j : BitVec 6} {s : State} (hfatal : s.fatal = false)
    (hchecks : issueError i s = issueError (.decode c k j) s) (hstart : startPos i s.len = .whole) :
    (s.run = none → s.cfg.ctxCount ≤ c.toNat → exec i s = .next { s with err := .invalidContext }) ∧
    (s.run = none → c.toNat < s.cfg.ctxCount → 729 ≤ k.toNat → exec i s = .next { s with err := .invalidCell }) ∧
    (s.run = none → c.toNat < s.cfg.ctxCount → k.toNat < 729 → s.cfg.lanes ≤ j.toNat →
      exec i s = .next { s with err := .invalidLane }) ∧
    (s.run = none → c.toNat < s.cfg.ctxCount → k.toNat < 729 → j.toNat < s.cfg.lanes →
      exec i s = .next { s with run := some { cmd := i, len := s.len, pos := .whole } }) := by
  refine ⟨fun hrun hc => exec_rejected hfatal hrun rfl (hchecks.trans ?_),
    fun hrun hc hk => exec_rejected hfatal hrun rfl (hchecks.trans ?_),
    fun hrun hc hk hj => exec_rejected hfatal hrun rfl (hchecks.trans ?_),
    fun hrun hc hk hj => hstart ▸ exec_issued hfatal hrun (hchecks.trans ?_)⟩
  · exact if_pos hc
  · exact (if_neg hc.not_ge).trans (if_pos hk)
  · exact (if_neg hc.not_ge).trans ((if_neg hk.not_ge).trans (if_pos hj))
  · exact (if_neg hc.not_ge).trans ((if_neg hk.not_ge).trans (if_neg hj.not_ge))

/-- ENCODE's micro-step writes one cell, by `enc`. -/
theorem microStep_encode_cell (c : CtxIdx) (j : BitVec 6) (v : Byte) (s : State) (r : Running) {i : BitVec 10}
    (hi : i.toNat < 729) (k : Nat) :
    ((microStep (.encode c i j v) s r).ctx c).cell k =
      if k = i.toNat then enc ((s.ctx c).cell i.toNat) j.toNat (normOf v) else (s.ctx c).cell k := by
  simp [microStep, Context.cell_putDigit, hi]

/-- Settles O22: the issue by the check table, the micro-step by what `enc` does to the lanes of its cell. -/
theorem encodeCommand : Obligations.EncodeCommand := by
  intro c i j v s hfatal
  obtain ⟨hcontext, hcell, hlane, hissued⟩ := cellCommand_issue (i := .encode c i j v) hfatal rfl rfl
  refine ⟨hcontext, hcell, hlane, hissued, fun r hrun hi => ?_⟩
  have hmicro := microStep_effect (.encode c i j v) s r
  have hcells := microStep_encode_cell c j v s r hi
  have hwritten := (hcells i.toNat).trans (if_pos rfl)
  refine ⟨_, exec_busy hfatal hrun, by rw [hwritten, dec_enc_self _ j.isLt], hwritten, fun k l hkl => ?_, ?_, ?_,
    ⟨rfl, rfl⟩, rfl⟩
  · rw [hcells]
    split
    · next hk => exact hk ▸ enc_sameLane _ _ (hkl.resolve_left (absurd hk))
    · exact ⟨rfl, rfl⟩
  · simp [microStep]
  · exact ⟨rfl, rfl, rfl, rfl, hmicro.sameOutside, fun d hd => hmicro.ctx_other fun h => hd (Option.some.inj h).symm⟩

/-- Settles O23: the issue by the check table; the micro-step writes RESULT, and ends. -/
theorem decodeCommand : Obligations.DecodeCommand := by
  intro c i j s hfatal
  obtain ⟨hcontext, hcell, hlane, hissued⟩ := cellCommand_issue (i := .decode c i j) hfatal rfl rfl
  refine ⟨fun hrun => reservedBitsIllegal_of_mask hfatal hrun rfl, hcontext, hcell, hlane, hissued, fun r hrun => ?_⟩
  have hmicro := microStep_effect (.decode c i j) s r
  refine ⟨_, exec_busy hfatal hrun, ?_, rfl, rfl, hfatal, hmicro.sameOutside, fun d => rfl, ⟨rfl, rfl⟩, rfl⟩
  change sext32 (codeOf (dec ((s.ctx c).cell i.toNat) j.toNat)) = _
  cases dec ((s.ctx c).cell i.toNat) j.toNat <;> rfl

end Sys2Proof.Machine
end

section
/-! PROOFS. The state commands RESET and CLONE: the issue, and the micro-step that writes one whole context (41_state_ops.md R130, R133). -/

namespace Sys2Proof.Machine

/-- A halted block does no step of a command (60_exceptions.md R206). -/
theorem exec_halted {s : State} (i : Instr) (h : s.fatal = true) : exec i s = .next s :=
  (exec_eq_runCommand i s).trans (runCommand_halted h)

/-- The frame of a micro-step that writes one context and ends its command, whatever it writes there. -/
theorem setCtx_complete_endedOn (s : State) (c : CtxIdx) (x : Context) : EndedOn c s (s.setCtx c x).complete :=
  ⟨rfl, rfl, rfl, rfl, ⟨rfl, rfl, rfl, rfl, rfl, rfl, rfl, rfl, rfl⟩, fun _ hd => State.ctx_setCtx_other s x hd⟩

theorem setCtx_complete_sameFifos (s : State) (c : CtxIdx) (x : Context) : SameFifos s (s.setCtx c x).complete :=
  ⟨rfl, rfl⟩

/-- After a copy the source still holds what it held, also where it is the destination itself. -/
theorem State.ctx_setCtx_source (s : State) (d e : CtxIdx) : (s.setCtx d (s.ctx e)).ctx e = s.ctx e := by
  rw [State.ctx_setCtx, ite_self]

/-- Settles O20: the issue by the check table, the micro-step as the write of the zero context. -/
theorem resetCommand : Obligations.ResetCommand := by
  refine fun c s => ⟨exec_halted _, fun hfatal => ⟨fun hrun => reservedBitsIllegal_of_mask hfatal hrun rfl,
    fun hrun hc => exec_rejected hfatal hrun rfl (if_pos hc),
    fun hrun hc => exec_issued hfatal hrun (if_neg hc.not_ge), fun r hrun => ?_⟩⟩
  have hctx : (microStep (.reset c) s r).ctx c = Context.zero := State.ctx_setCtx_self s c Context.zero
  exact ⟨_, exec_busy hfatal hrun, fun i => by rw [hctx]; exact Context.cell_zero i, by rw [hctx]; rfl,
    setCtx_complete_endedOn s c Context.zero, setCtx_complete_sameFifos s c Context.zero, rfl⟩

/-- Settles O21: the issue by the check table, either context failing with one code; the micro-step as the write of the source's
context. -/
theorem cloneCommand : Obligations.CloneCommand := by
  intro d e s hfatal
  refine ⟨fun hrun => reservedBitsIllegal_of_mask hfatal hrun rfl,
    fun hrun hde => exec_rejected hfatal hrun rfl ?_,
    fun hrun hd he => exec_issued hfatal hrun ((if_neg hd.not_ge).trans (if_neg he.not_ge)), fun r hrun => ?_⟩
  · rcases hde with hd | he
    · exact if_pos hd
    · exact ite_eq_left_iff.mpr fun _ => if_pos he
  · have hctx : (microStep (.clone d e) s r).ctx d = s.ctx e := State.ctx_setCtx_self s d (s.ctx e)
    exact ⟨_, exec_busy hfatal hrun, fun i => by rw [hctx], by rw [hctx], State.ctx_setCtx_source s d e,
      setCtx_complete_endedOn s d (s.ctx e), setCtx_complete_sameFifos s d (s.ctx e), rfl⟩

end Sys2Proof.Machine
end

section
/-! PROOFS. The S-box lane by lane, one round, and the default table (42_permutation.md R140 to R144, R149). -/

namespace Sys2Proof.Machine

/-- Settles O10: in each lane the S-box sets the positive plane only where it clears the negative one. -/
theorem sboxOutputExclusive : Obligations.SboxOutputExclusive := sbox_exclusive

/-- Where no lane has both planes set, a lane's two bits are those of its digit (10_state.md R21, R22). -/
theorem Cell.Exclusive.getLsbD_eq_dec {x : Cell} (h : x.Exclusive) (j : Nat) :
    x.p.getLsbD j = decide (dec x j = .pos) ∧ x.n.getLsbD j = decide (dec x j = .neg) := by
  have hbits : (x.p.getLsbD j && x.n.getLsbD j) = false := by
    rw [← BitVec.getLsbD_and, h, BitVec.getLsbD_zero]
  unfold dec
  cases hp : x.p.getLsbD j with
  | true => simpa [hp] using hbits
  | false => cases x.n.getLsbD j <;> decide

/-- One lane of the S-box is the sixteen-row table (42_permutation.md R142). -/
theorem sbox_eq_sboxBits (g : Config) (x y : Cell) {j : Nat} (hj : j < g.lanes) :
    ((sbox g x y).p.getLsbD j, (sbox g x y).n.getLsbD j) =
      sboxBits (x.p.getLsbD j) (x.n.getLsbD j) (y.p.getLsbD j) (y.n.getLsbD j) := by
  obtain ⟨hp, hn⟩ := sbox_getLsbD g x y hj
  rw [hp, hn]
  cases x.p.getLsbD j <;> cases x.n.getLsbD j <;> cases y.p.getLsbD j <;> cases y.n.getLsbD j <;> rfl

/-- One lane of the S-box is the nine-pair table on its digits (42_permutation.md R142). -/
theorem dec_sbox (g : Config) {x y : Cell} (hx : x.Exclusive) (hy : y.Exclusive) {j : Nat} (hj : j < g.lanes) :
    dec (sbox g x y) j = sboxDigit (dec x j) (dec y j) := by
  obtain ⟨hp, hn⟩ := sbox_getLsbD g x y hj
  obtain ⟨hxp, hxn⟩ := hx.getLsbD_eq_dec j
  obtain ⟨hyp, hyn⟩ := hy.getLsbD_eq_dec j
  rw [dec, hp, hn, hxp, hxn, hyp, hyn]
  cases dec x j <;> cases dec y j <;> rfl

/-- Settles O11: the S-box of one lane on the sixteen values of its four bits, and on the nine pairs of digits. -/
theorem sboxTruthTable : Obligations.SboxTruthTable :=
  fun g x y _ hj => ⟨sbox_eq_sboxBits g x y hj, fun hx hy => dec_sbox g hx hy hj⟩

/-- Settles O12: each of the three cells is a cell of the round, and neighbours share a table entry. -/
theorem roundSlidingWindow : Obligations.RoundSlidingWindow := by
  intro g x q hq
  have hlast : 3 * q + 2 < stateSize := show 3 * q + 2 < 729 by omega
  exact ⟨roundOf_cellAt g x (by omega), roundOf_cellAt g x (by omega), roundOf_cellAt g x hlast⟩

/-- The closed form of the default table (42_permutation.md R143). -/
theorem tableEntry_reference {k : Nat} (hk : k ≤ 729) : tableEntry Config.reference k = 364 * k % 729 := by
  rw [tableEntry_lt _ (Nat.lt_succ_of_le hk)]
  simp [Config.reference, Config.defaultTable]

/-- Settles O17: by the closed form; multiplication by 364 modulo 729 is undone by multiplication by 727 (42_permutation.md R149). -/
theorem defaultTableProperties : Obligations.DefaultTableProperties := by
  refine ⟨tableEntry_reference (Nat.zero_le _), fun k hk => ?_, fun k => tableEntry_reference,
    tableEntry_reference le_rfl, fun i j hi hj => ?_, fun v hv => ⟨727 * v % 729, Nat.mod_lt _ (by decide), ?_⟩⟩
  · rw [tableEntry_reference hk, tableEntry_reference hk.le]
    split <;> omega
  · rw [tableEntry_reference hi.le, tableEntry_reference hj.le]
    omega
  · rw [tableEntry_reference (Nat.mod_lt _ (by decide)).le]
    omega

end Sys2Proof.Machine
end

section
/-! PROOFS. The transform: its 81 rounds, what it writes, and the independence of the lanes (42_permutation.md R145 to R148;
70_reset_and_hazards.md R248). -/

namespace Sys2Proof.Machine

/-! The double buffer. -/

theorem Buffers.roundStep_round (g : Config) (b : Buffers) : (b.roundStep g).engine.round = b.engine.round + 1 := by
  unfold Buffers.roundStep
  cases b.engine.role <;> rfl

theorem Buffers.run_round (g : Config) (n : Nat) (b : Buffers) :
    (Buffers.run g n b).engine.round = b.engine.round + n := by
  induction n generalizing b with
  | zero => rw [Buffers.run_zero, Nat.add_zero]
  | succ n ih => rw [Buffers.run_succ, ih, Buffers.roundStep_round, Nat.succ_add_eq_add_succ]

/-- Settles O13: every step makes a round of the current input and counts it, whichever buffer holds it. -/
theorem doubleBufferingComputesRounds : Obligations.DoubleBufferingComputesRounds :=
  fun g n _ _ => ⟨Buffers.run_current g n _, (Buffers.run_round g n _).trans (Nat.zero_add n)⟩

/-! The state. -/

/-- The transform of a state transforms its context as the plain function does. -/
theorem State.ctx_transform_self (s : State) (c : CtxIdx) : (s.transform c).ctx c = (s.ctx c).transformed s.cfg := by
  rw [State.ctx_transform, if_pos rfl, engineTransform_cells]
  rfl

theorem State.transform_sameOtherContexts (s : State) (c : CtxIdx) : SameOtherContexts c s (s.transform c) :=
  fun d hd => (State.ctx_transform s c d).trans (if_neg hd)

theorem State.transform_sameStatus (s : State) (c : CtxIdx) : SameStatus s (s.transform c) :=
  ⟨rfl, rfl, rfl, rfl, rfl, rfl, rfl, rfl, rfl, rfl, rfl, rfl⟩

/-- Settles O14: the context's cells by the double buffer's equation, everything else untouched. -/
theorem transformIsEightyOneRounds : Obligations.TransformIsEightyOneRounds :=
  fun s c => ⟨congrArg Context.cells (s.ctx_transform_self c), s.transform_dir c c, s.transform_sameOtherContexts c, rfl,
    s.transform_sameStatus c, rfl, rfl⟩

/-! One lane. -/

/-- A lane of the S-box's output is a function of that lane of its inputs (42_permutation.md R148). -/
theorem sbox_sameLane (g : Config) {j : Nat} {x x' y y' : Cell} (hx : SameLane j x x') (hy : SameLane j y y') :
    SameLane j (sbox g x y) (sbox g x' y') := by
  obtain ⟨hxp, hxn⟩ := hx
  obtain ⟨hyp, hyn⟩ := hy
  unfold SameLane
  by_cases hj : j < g.lanes
  · obtain ⟨hp, hn⟩ := sbox_getLsbD g x y hj
    obtain ⟨hp', hn'⟩ := sbox_getLsbD g x' y' hj
    rw [hp, hn, hp', hn', hxp, hxn, hyp, hyn]
    exact ⟨rfl, rfl⟩
  · simp [sbox_getLsbD_outside g _ _ (Nat.not_lt.mp hj)]

theorem roundOf_sameLane (g : Config) {j : Nat} {x y : Cells} (h : ∀ i, SameLane j (x.cellAt i) (y.cellAt i)) (i : Nat) :
    SameLane j ((roundOf g x).cellAt i) ((roundOf g y).cellAt i) := by
  by_cases hi : i < stateSize
  · rw [roundOf_cellAt g x hi, roundOf_cellAt g y hi]
    exact sbox_sameLane g (h _) (h _)
  · simp [SameLane, Cells.cellAt, hi]

theorem rounds_sameLane (g : Config) {j : Nat} (n : Nat) {x y : Cells} (h : ∀ i, SameLane j (x.cellAt i) (y.cellAt i))
    (i : Nat) : SameLane j ((rounds g n x).cellAt i) ((rounds g n y).cellAt i) := by
  induction n generalizing x y with
  | zero =>
    rw [rounds_zero, rounds_zero]
    exact h i
  | succ n ih =>
    rw [rounds_succ, rounds_succ]
    exact ih (roundOf_sameLane g h)

/-- Settles O15: the S-box keeps the lanes apart, so a round does, and so do 81 of them. -/
theorem lanesEvolveIndependently : Obligations.LanesEvolveIndependently := by
  intro s t c j hcfg h i
  rw [State.ctx_transform_self, State.ctx_transform_self, hcfg]
  exact rounds_sameLane t.cfg roundCount h i

end Sys2Proof.Machine
end

section
/-! PROOFS. The orbit of the zero state, and PERMUTE (42_permutation.md R150, R151; 43_protocol.md R182). -/

namespace Sys2Proof.Machine

/-! Arrays of one repeated cell. -/

/-- All cells equal to `v`. -/
def Cells.uniform (v : Cell) : Cells := Vector.replicate stateSize v

theorem Cells.zero_eq_uniform : Cells.zero = Cells.uniform Cell.zero := rfl

theorem Cells.cellAt_uniform (v : Cell) {i : Nat} (hi : i < stateSize) : (Cells.uniform v).cellAt i = v := by
  rw [Cells.cellAt_lt _ hi, Cells.uniform, Vector.getElem_replicate]

/-- A round of a uniform array is uniform, whatever the table. -/
theorem roundOf_uniform (g : Config) (v : Cell) : roundOf g (Cells.uniform v) = Cells.uniform (sbox g v v) := by
  refine Cells.ext_cellAt fun i hi => ?_
  rw [roundOf_cellAt g _ hi, Cells.cellAt_uniform v (tableEntry_bound g i),
    Cells.cellAt_uniform v (tableEntry_bound g (i + 1)), Cells.cellAt_uniform _ hi]

/-- The digit -1 in every lane. -/
def Cell.allNeg (g : Config) : Cell := { p := 0#64, n := planeMask g }

/-- The digit +1 in every lane. -/
def Cell.allPos (g : Config) : Cell := { p := planeMask g, n := 0#64 }

theorem sbox_zero (g : Config) : sbox g Cell.zero Cell.zero = Cell.allNeg g := by
  simp [sbox, Cell.zero, Cell.allNeg, -BitVec.reduceAllOnes]

theorem sbox_allNeg (g : Config) : sbox g (Cell.allNeg g) (Cell.allNeg g) = Cell.allPos g := by
  simp [sbox, Cell.allNeg, Cell.allPos, -BitVec.reduceAllOnes]

theorem sbox_allPos (g : Config) : sbox g (Cell.allPos g) (Cell.allPos g) = Cell.zero := by
  simp [sbox, Cell.allPos, Cell.zero]

/-! The orbit. -/

theorem roundOf_zero (g : Config) : roundOf g Cells.zero = Cells.uniform (Cell.allNeg g) := by
  rw [Cells.zero_eq_uniform, roundOf_uniform, sbox_zero]

theorem roundOf_allNeg (g : Config) : roundOf g (Cells.uniform (Cell.allNeg g)) = Cells.uniform (Cell.allPos g) := by
  rw [roundOf_uniform, sbox_allNeg]

theorem roundOf_allPos (g : Config) : roundOf g (Cells.uniform (Cell.allPos g)) = Cells.zero := by
  rw [roundOf_uniform, sbox_allPos, Cells.zero_eq_uniform]

theorem rounds_eq_iterate (g : Config) (n : Nat) (x : Cells) : rounds g n x = (roundOf g)^[n] x := by
  induction n generalizing x with
  | zero => rw [rounds_zero, Function.iterate_zero_apply]
  | succ n ih => rw [rounds_succ, ih, Function.iterate_succ_apply]

theorem roundOf_isPeriodicPt_zero (g : Config) : Function.IsPeriodicPt (roundOf g) 3 Cells.zero :=
  calc roundOf g (roundOf g (roundOf g Cells.zero))
    _ = roundOf g (roundOf g (Cells.uniform (Cell.allNeg g))) := by rw [roundOf_zero]
    _ = roundOf g (Cells.uniform (Cell.allPos g)) := by rw [roundOf_allNeg]
    _ = Cells.zero := roundOf_allPos g

/-- The transform fixes the zero state, since 3 divides 81 (42_permutation.md R151). -/
theorem rounds_roundCount_zero (g : Config) : rounds g roundCount Cells.zero = Cells.zero :=
  (rounds_eq_iterate g roundCount _).trans ((roundOf_isPeriodicPt_zero g).trans_dvd (by decide))

/-! Absorbing zeros into a zero context, and squeezing it. -/

theorem Context.transformed_zero (g : Config) : Context.zero.transformed g = Context.zero :=
  congrArg (Context.mk · Direction.absorbing) (rounds_roundCount_zero g)

theorem Context.putDigit_zero (k j : Nat) : Context.zero.putDigit k j .zero = Context.zero := by
  refine congrArg (Context.mk · Direction.absorbing) (Cells.ext_cellAt fun i _ => ?_)
  have hcell := Context.cell_putDigit Context.zero k j i .zero
  have henc : enc Cell.zero j .zero = Cell.zero := by simp [enc, Cell.zero]
  rw [Context.cell_zero, Context.cell_zero, henc, ite_self] at hcell
  exact hcell.trans (Context.cell_zero i).symm

theorem mergeBlock_zero (batch q : Nat) : mergeBlock batch (List.replicate q 0x00#8) Context.zero = Context.zero := by
  have hentry (i : Nat) : normOf ((List.replicate q 0x00#8).getD i 0#8) = .zero := by
    rw [List.getD_eq_getElem?_getD, List.getElem?_getD_replicate_default_eq]
    rfl
  have hput (k j i : Nat) :
      Context.zero.putDigit k j (normOf ((List.replicate q 0x00#8).getD i 0#8)) = Context.zero := by
    rw [hentry, Context.putDigit_zero]
  exact List.foldl_fixed' (fun j => List.foldl_fixed' (fun k => hput k j _) _) _

theorem absorbBlocks_zero (g : Config) (batch m q : Nat) :
    absorbBlocks g batch m (List.replicate q 0x00#8) Context.zero = Context.zero := by
  induction m generalizing q with
  | zero => rfl
  | succ m ih => rw [absorbBlocks, mergeBlock_zero, Context.transformed_zero, List.drop_replicate, ih]

theorem emitBlock_length (batch : Nat) (x : Context) : (emitBlock batch x).length = batch * 243 := by
  simp [emitBlock]

theorem Context.digit_zero {x : Context} (hx : x.cells = Cells.zero) (k j : Nat) : x.digit k j = .zero := by
  have hcell : x.cell k = Cell.zero := (congrArg (Cells.cellAt · k) hx).trans (Context.cell_zero k)
  rw [Context.digit, hcell]
  simp [dec, Cell.zero]

theorem emitBlock_zero (batch : Nat) {x : Context} (hx : x.cells = Cells.zero) :
    emitBlock batch x = List.replicate (batch * 243) 0x00#8 := by
  refine List.eq_replicate_iff.mpr ⟨emitBlock_length batch x, fun v hv => ?_⟩
  simp only [emitBlock, List.mem_flatMap, List.mem_map, Context.digit_zero hx] at hv
  obtain ⟨j, _, k, _, rfl⟩ := hv
  rfl

theorem squeezeReady_cells_zero (g : Config) {x : Context} (hx : x.cells = Cells.zero) :
    (squeezeReady g x).cells = Cells.zero := by
  rw [squeezeReady, Context.setDir_cells]
  split
  · rw [Context.transformed, hx, rounds_roundCount_zero]
  · exact hx

theorem squeezeBlocks_zero (g : Config) (batch n : Nat) {x : Context} (hx : x.cells = Cells.zero) :
    (squeezeBlocks g batch n x).2 = List.replicate (n * (batch * 243)) 0x00#8 := by
  induction n generalizing x with
  | zero => simp [squeezeBlocks]
  | succ n ih =>
    have hready := squeezeReady_cells_zero g hx
    rw [squeezeBlocks, ih hready, emitBlock_zero batch hready, List.replicate_append_replicate, Nat.succ_mul, Nat.add_comm]

/-- Settles O16: uniform arrays stay uniform, so the orbit is that of one cell; the digests by the transform's fixed point. -/
theorem zeroStateOrbit : Obligations.ZeroStateOrbit := by
  refine fun g => ⟨fun i hi => ?_, fun i hi => ?_, roundOf_isPeriodicPt_zero g, rounds_roundCount_zero g,
    fun batch m n q => ?_⟩
  · rw [roundOf_zero, Cells.cellAt_uniform _ hi, Cell.allNeg]
  · rw [roundOf_zero, roundOf_allNeg, Cells.cellAt_uniform _ hi, Cell.allPos]
  · rw [absorbBlocks_zero]
    exact squeezeBlocks_zero g batch n rfl

/-! PERMUTE. -/

theorem permuteStep_transform {r : Running} {b : Nat} (h : r.pos = .transform b) (c : CtxIdx) (s : State) :
    permuteStep c s r = (s.transform c).advance .finish := by
  simp [permuteStep, h]

theorem permuteStep_finish {r : Running} (h : r.pos = .finish) (c : CtxIdx) (s : State) : permuteStep c s r = s.complete := by
  simp [permuteStep, h]

/-- The transform of a context of zero cells leaves zero cells, whatever its direction (42_permutation.md R151). -/
theorem Context.transformed_cell_zero (g : Config) {x : Context} (hx : ∀ i, x.cell i = Cell.zero) (i : Nat) :
    (x.transformed g).cell i = Cell.zero := by
  have hcells : x.cells = Cells.zero := Cells.ext_cellAt fun k _ => (hx k).trans (Context.cell_zero k).symm
  rw [Context.cell_eq_cellAt, Context.transformed, hcells, rounds_roundCount_zero]
  exact Context.cell_zero i

/-- Settles O24: the issue by the check table, the micro-step as the transform of one context. -/
theorem permuteCommand : Obligations.PermuteCommand := by
  refine fun c s hfatal => ⟨fun hrun => reservedBitsIllegal_of_mask hfatal hrun rfl,
    fun hrun hc => exec_rejected hfatal hrun rfl (if_pos hc),
    fun hrun hc => exec_issued hfatal hrun (if_neg hc.not_ge), fun r b hrun hpos => ?_, fun r hrun hpos => ?_⟩
  · have hexec := (exec_busy (i := .permute c) hfatal hrun).trans (congrArg _ (permuteStep_transform hpos c s))
    have hctx : ((s.transform c).advance .finish).ctx c = (s.ctx c).transformed s.cfg := s.ctx_transform_self c
    refine ⟨_, hexec, by rw [hctx]; rfl, by rw [hctx]; rfl, fun hzero => ?_, ?_, s.transform_sameStatus c,
      s.transform_sameOtherContexts c, rfl, rfl⟩
    · rw [hctx]
      exact Context.transformed_cell_zero s.cfg hzero
    · simp [hrun]
  · exact (exec_busy hfatal hrun).trans (congrArg _ (permuteStep_finish hpos c s))

end Sys2Proof.Machine
end

section
/-! PROOFS. The micro-steps of ABSORB and SQUEEZE one by one (43_protocol.md R172 to R174, R178, R179). -/

namespace Sys2Proof.Machine

/-! ABSORB. -/

theorem absorbStep_merge {s : State} {r : Running} {b j k : Nat} {v : Byte} {rest : List Byte} (hpos : r.pos = .merge b j k)
    (hfifo : s.inFifo = v :: rest) (c : CtxIdx) (n : BitVec 7) :
    absorbStep c n s r =
      { s.setCtx c ((s.ctx c).putDigit k j (normOf v)) with inFifo := rest }.advance (absorbNext n.toNat b j k) := by
  simp [absorbStep, hpos, hfifo]

theorem absorbStep_transform {r : Running} {b : Nat} (hpos : r.pos = .transform b) (c : CtxIdx) (n : BitVec 7) (s : State) :
    absorbStep c n s r = (s.transform c).advance (absorbBlock r.len (b + 1)) := by
  simp [absorbStep, hpos]

/-- The last position of a lane is that of digit 242 (43_protocol.md R173). -/
theorem absorbNext_eq (batch b j k : Nat) :
    absorbNext batch b j k =
      if k < 242 then .merge b j (k + 1) else if j + 1 < batch then .merge b (j + 1) 0 else .transform b := by
  have hlast : k + 1 < blockSize ↔ k < 242 := Nat.succ_lt_succ_iff
  simp only [absorbNext, hlast]

/-- Settles O25: the micro-step writes one digit of one context, by `enc`, and pops one entry. -/
theorem absorbMergeStep : Obligations.AbsorbMergeStep := by
  intro c n s r b j k v rest hfatal hrun hpos hfifo hk
  have hexec := (exec_busy (i := .absorb c n) hfatal hrun).trans (congrArg _ (absorbStep_merge hpos hfifo c n))
  have hmicro := MicroEffect.merge c n hpos hfifo
  have hctx (x : Context) (p : Pos) : ({ s.setCtx c x with inFifo := rest }.advance p).ctx c = x := s.ctx_setCtx_self c x
  have hcell : k < stateSize := hk.trans (by decide)
  refine ⟨_, hexec, rfl, ?_, fun i hi => ?_, by rw [hctx]; rfl, ?_, rfl, rfl,
    ⟨rfl, rfl, rfl, hmicro.sameOutside⟩, fun d hd => State.ctx_setCtx_other s _ hd⟩
  · rw [hctx, Context.cell_putDigit, if_pos ⟨rfl, hcell⟩]
  · rw [hctx, Context.cell_putDigit, if_neg fun h => hi h.1]
  · simp [hrun, absorbNext_eq]

/-- Settles O26: the micro-step is the transform of one context. -/
theorem absorbTransformStep : Obligations.AbsorbTransformStep := by
  intro c n s r b hfatal hrun hpos
  have hexec := (exec_busy (i := .absorb c n) hfatal hrun).trans (congrArg _ (absorbStep_transform hpos c n s))
  obtain ⟨hcells, hdir, hother, _, hstatus, hfifos⟩ := transformIsEightyOneRounds s c
  refine ⟨_, hexec, hcells, hdir, ?_, hstatus, hother, hfifos⟩
  rw [State.advance_run, State.transform_run, hrun]
  rfl

/-! SQUEEZE. -/

theorem squeezeStep_transform {s : State} {r : Running} {c : CtxIdx} {b : Nat} (hpos : r.pos = .blockStart b)
    (hdir : (s.ctx c).dir = .squeezing) (n : BitVec 7) :
    squeezeStep c n s r = (s.transform c).advance (.direction b) := by
  simp [squeezeStep, hpos, hdir]

theorem squeezeStep_direction {s : State} {r : Running} {c : CtxIdx} {b : Nat}
    (hpos : r.pos = .direction b ∨ r.pos = .blockStart b ∧ (s.ctx c).dir = .absorbing) (n : BitVec 7) :
    squeezeStep c n s r = directionWrite c b s := by
  rcases hpos with hpos | ⟨hpos, hdir⟩
  · simp [squeezeStep, hpos]
  · simp [squeezeStep, hpos, hdir]

theorem squeezeStep_emit {s : State} {r : Running} {b j k : Nat} (hpos : r.pos = .emit b j k)
    (hroom : s.outFifo.length < s.cfg.ofifoDepth) (c : CtxIdx) (n : BitVec 7) :
    squeezeStep c n s r =
      (s.pushOut (codeOf ((s.ctx c).digit k j))).advance (squeezeNext r.len n.toNat b j k) := by
  simp [squeezeStep, hpos, State.outHasRoom, hroom]

/-- The last position of a lane is that of digit 242 (43_protocol.md R173). -/
theorem squeezeNext_eq (len : Word) (batch b j k : Nat) :
    squeezeNext len batch b j k =
      if k < 242 then .emit b j (k + 1) else if j + 1 < batch then .emit b (j + 1) 0 else squeezeBlock len (b + 1) := by
  have hlast : k + 1 < blockSize ↔ k < 242 := Nat.succ_lt_succ_iff
  simp only [squeezeNext, hlast]

theorem directionWrite_ctx (c : CtxIdx) (b : Nat) (s : State) :
    (directionWrite c b s).ctx c = (s.ctx c).setDir .squeezing :=
  s.ctx_setCtx_self c _

/-- Settles O27: the transform of one context, or the write of its direction. -/
theorem squeezeBlockSteps : Obligations.SqueezeBlockSteps := by
  refine fun c n s r b hfatal hrun => ⟨fun hpos hdir => ?_, fun hpos => ?_⟩
  · have hexec := (exec_busy (i := .squeeze c n) hfatal hrun).trans (congrArg _ (squeezeStep_transform hpos hdir n))
    obtain ⟨hcells, hkeep, hother, _, hstatus, hfifos⟩ := transformIsEightyOneRounds s c
    exact ⟨_, hexec, hcells, hkeep.trans hdir, by simp [hrun], hstatus, hother, hfifos⟩
  · have hexec := (exec_busy (i := .squeeze c n) hfatal hrun).trans (congrArg _ (squeezeStep_direction hpos n))
    have hmicro := MicroEffect.direction (s := s) c n (hpos.imp_right And.left)
    exact ⟨_, hexec, by rw [directionWrite_ctx]; rfl, directionWrite_dir c b s, by simp [directionWrite, hrun],
      ⟨rfl, rfl, rfl, hmicro.sameOutside⟩, fun d hd => State.ctx_setCtx_other s _ hd, ⟨rfl, rfl⟩, rfl⟩

/-- Settles O28: the micro-step pushes one code and writes no context. -/
theorem squeezeEmitStep : Obligations.SqueezeEmitStep := by
  intro c n s r b j k hfatal hrun hpos hroom
  have hexec := (exec_busy (i := .squeeze c n) hfatal hrun).trans (congrArg _ (squeezeStep_emit hpos hroom c n))
  have hmicro := MicroEffect.emit c n hpos (decide_eq_true hroom)
  refine ⟨_, hexec, rfl, ?_, fun d => rfl, rfl, rfl, rfl, rfl, rfl, hmicro.sameOutside⟩
  rw [State.advance_run, State.pushOut_run, hrun, squeezeNext_eq]
  rfl

/-! Directions. -/

/-- Everything a micro-step can do to a direction (43_protocol.md R170). -/
theorem MicroEffect.dir {s t : State} {r : Running} {i : Instr} (h : MicroEffect s r i t) (c : CtxIdx) :
    (t.ctx c).dir = (s.ctx c).dir ∨
    (i = .reset c ∧ (t.ctx c).dir = .absorbing) ∨
    (∃ e, i = .clone c e ∧ (t.ctx c).dir = (s.ctx e).dir) ∨
    (∃ n, i = .squeeze c n ∧ (t.ctx c).dir = .squeezing) := by
  by_cases htarget : commandTarget i = some c
  case neg => exact .inl (by rw [h.ctx_other htarget])
  cases h with
  | stall | finish | decode | emit => exact .inl rfl
  | encode | merge => exact .inl (State.setCtx_dirs (Context.putDigit_dir _ _ _ _) c)
  | permute | absorbTransform | squeezeTransform => exact .inl (State.transform_dir s _ c)
  | reset d =>
    cases htarget
    exact .inr (.inl ⟨rfl, congrArg Context.dir (s.ctx_setCtx_self c _)⟩)
  | clone d e =>
    cases htarget
    exact .inr (.inr (.inl ⟨e, rfl, congrArg Context.dir (s.ctx_setCtx_self c _)⟩))
  | direction d n =>
    cases htarget
    exact .inr (.inr (.inr ⟨n, rfl, directionWrite_dir c _ s⟩))

/-- Settles O35: of the effects of a step only hardware reset and a micro-step of the latched command write a context. -/
theorem directionChangesOnlyAsListed : Obligations.DirectionChangesOnlyAsListed := by
  intro s t c h hne
  rcases step_effect h with ⟨hreset, u, _, rfl⟩ | hframe | ⟨_, _, u, hframe, rfl⟩ | ⟨_, u, i, hframe, hexec, hcmd⟩
  · exact .inl ⟨hreset, congrArg Context.dir (u.ctx_hardReset c)⟩
  · exact absurd (congrArg Context.dir (hframe.ctx c)) hne
  · exact absurd (congrArg Context.dir (hframe.ctx c)) hne
  · rw [← hframe.ctx] at hne
    rcases exec_issue_or_micro hexec with ⟨_, _, _, rfl⟩ | ⟨r, hrun, hmicro⟩
    · exact absurd rfl hne
    · have hr : s.run = some r := hframe.run ▸ hrun
      cases hcmd r hr
      simp only [← hframe.ctx]
      exact .inr ⟨r, hr, (hmicro.dir c).resolve_left hne⟩

end Sys2Proof.Machine
end

section
/-! PROOFS. The streams of the block loops: which entry is merged where, and which digit is emitted where (43_protocol.md R172 to R175,
R178). -/

namespace Sys2Proof.Machine

/-! Merging. -/

/-- The first `m` merges of a block: entry q is digit `q mod 243` of lane `q div 243` (43_protocol.md R173). -/
def mergeFirst (m : Nat) (vs : List Byte) (x : Context) : Context :=
  (List.range m).foldl (fun y q => y.putDigit (q % 243) (q / 243) (normOf (vs.getD q 0#8))) x

@[simp] theorem mergeFirst_zero (vs : List Byte) (x : Context) : mergeFirst 0 vs x = x := rfl

theorem mergeFirst_succ (m : Nat) (vs : List Byte) (x : Context) :
    mergeFirst (m + 1) vs x =
      (mergeFirst m vs x).putDigit (m % 243) (m / 243) (normOf (vs.getD m 0#8)) := by
  simp [mergeFirst, List.range_succ]

/-- An entry's place in a block, from its lane and its position in the lane. -/
theorem entryPlace_mod_div {j k : Nat} (hk : k < 243) : (j * 243 + k) % 243 = k ∧ (j * 243 + k) / 243 = j := by
  omega

theorem mergeBlock_succ (batch : Nat) (vs : List Byte) (x : Context) :
    mergeBlock (batch + 1) vs x =
      (List.range 243).foldl (fun z k => z.putDigit k batch (normOf (vs.getD (batch * 243 + k) 0#8)))
        (mergeBlock batch vs x) := by
  rw [mergeBlock, List.range_succ (n := batch), List.foldl_append, ← mergeBlock, List.foldl_cons, List.foldl_nil]

/-- Merging a block lane by lane is merging its entries one after another. -/
theorem mergeBlock_eq_mergeFirst (batch : Nat) (vs : List Byte) (x : Context) :
    mergeBlock batch vs x = mergeFirst (batch * 243) vs x := by
  induction batch with
  | zero => simp [mergeBlock]
  | succ batch ih =>
    rw [mergeBlock_succ, mergeFirst, Nat.succ_mul, List.range_add, List.foldl_append, List.foldl_map, ← mergeFirst, ← ih]
    refine List.foldl_ext _ _ _ fun y k hk => ?_
    obtain ⟨hmod, hdiv⟩ := entryPlace_mod_div (j := batch) (List.mem_range.mp hk)
    rw [hmod, hdiv]

theorem mergeFirst_dir (m : Nat) (vs : List Byte) (x : Context) : (mergeFirst m vs x).dir = x.dir := by
  induction m with
  | zero => rfl
  | succ m ih => rw [mergeFirst_succ, Context.putDigit_dir, ih]

/-- Writing a digit leaves the other lanes and the other cells. -/
theorem Context.putDigit_sameLane (x : Context) {i j k l : Nat} (d : Digit) (h : k ≠ i ∨ l ≠ j) :
    SameLane l ((x.putDigit i j d).cell k) (x.cell k) := by
  rw [Context.cell_putDigit]
  split
  · next hk => exact hk.1 ▸ enc_sameLane _ d (h.resolve_left (absurd hk.1))
  · exact ⟨rfl, rfl⟩

/-- The first `m` merges leave every lane that is no place of theirs. -/
theorem mergeFirst_sameLane {m i j : Nat} (vs : List Byte) (x : Context) (h : ∀ q < m, i ≠ q % 243 ∨ j ≠ q / 243) :
    SameLane j ((mergeFirst m vs x).cell i) (x.cell i) := by
  induction m with
  | zero => exact ⟨rfl, rfl⟩
  | succ m ih =>
    obtain ⟨hp, hn⟩ := ih fun q hq => h q (hq.trans m.lt_succ_self)
    obtain ⟨hp', hn'⟩ := (mergeFirst m vs x).putDigit_sameLane (normOf (vs.getD m 0#8)) (h m m.lt_succ_self)
    rw [mergeFirst_succ]
    exact ⟨hp'.trans hp, hn'.trans hn⟩

/-- The entry merged at a place is the digit there once the later entries are merged too. -/
theorem mergeFirst_dec {m j k : Nat} (vs : List Byte) (x : Context) (hj : j < 64) (hk : k < 243) (h : j * 243 + k < m) :
    dec ((mergeFirst m vs x).cell k) j = normOf (vs.getD (j * 243 + k) 0#8) := by
  induction m with
  | zero => cases h
  | succ m ih =>
    obtain ⟨hmod, hdiv⟩ := entryPlace_mod_div (j := j) hk
    rw [mergeFirst_succ]
    rcases Nat.lt_succ_iff_lt_or_eq.mp h with hlt | rfl
    · rw [dec_congr (Context.putDigit_sameLane _ _ (by omega)), ih hlt]
    · rw [hmod, hdiv, Context.cell_putDigit, if_pos ⟨rfl, hk.trans (by decide)⟩, dec_enc_self _ hj]

/-- A cell is its lanes. -/
theorem Cell.ext_sameLane {x y : Cell} (h : ∀ j, SameLane j x y) : x = y :=
  congrArg₂ Cell.mk (BitVec.eq_of_getLsbD_eq fun j _ => (h j).1) (BitVec.eq_of_getLsbD_eq fun j _ => (h j).2)

/-- Settles O34: the places of a block's entries are the lanes of the batch in the first 243 cells, each once. -/
theorem mergeWritesTheBatch : Obligations.MergeWritesTheBatch := by
  intro batch vs x hbatch
  rw [mergeBlock_eq_mergeFirst]
  refine ⟨fun i j hj => mergeFirst_sameLane vs x fun q hq => .inr (by omega), fun i hi => ?_,
    fun j k hj hk => mergeFirst_dec vs x (by omega) hk (by omega), mergeFirst_dir _ vs x⟩
  exact Cell.ext_sameLane fun j => mergeFirst_sameLane vs x fun q _ => .inl (by omega)

/-! Emitting. -/

theorem emitBlock_succ (batch : Nat) (x : Context) :
    emitBlock (batch + 1) x = emitBlock batch x ++ (List.range 243).map fun k => codeOf (x.digit k batch) := by
  rw [emitBlock, List.range_succ (n := batch), List.flatMap_append, List.flatMap_singleton, ← emitBlock]

/-- Entry `j·243 + k` of a block is digit k of lane j (43_protocol.md R173). -/
theorem emitBlock_getElem? {batch j k : Nat} (x : Context) (hj : j < batch) (hk : k < 243) :
    (emitBlock batch x)[j * 243 + k]? = some (codeOf (x.digit k j)) := by
  induction batch with
  | zero => cases hj
  | succ batch ih =>
    have hlen := emitBlock_length batch x
    rw [emitBlock_succ]
    rcases Nat.lt_succ_iff_lt_or_eq.mp hj with hlt | rfl
    · rw [List.getElem?_append_left (by omega), ih hlt]
    · rw [List.getElem?_append_right (by omega), hlen, Nat.add_sub_cancel_left]
      simp [hk]

theorem squeezeBlocks_length (g : Config) (batch n : Nat) (x : Context) :
    (squeezeBlocks g batch n x).2.length = n * batch * 243 := by
  induction n generalizing x with
  | zero => simp [squeezeBlocks]
  | succ n ih =>
    simp only [squeezeBlocks, List.length_append, emitBlock_length, ih]
    ring

theorem squeezeBlocks_succ_ctx (g : Config) (batch b : Nat) (x : Context) :
    (squeezeBlocks g batch (b + 1) x).1 = squeezeReady g (squeezeBlocks g batch b x).1 := by
  rw [squeezeBlocks_add]
  rfl

/-- Entry `(b·batch + j)·243 + k` of the output is digit k of lane j of the context that block b is emitted from
(43_protocol.md R173). -/
theorem squeezeBlocks_getElem? {g : Config} {batch n b j k : Nat} (x : Context) (hb : b < n) (hj : j < batch) (hk : k < 243) :
    (squeezeBlocks g batch n x).2[(b * batch + j) * 243 + k]? =
      some (codeOf ((squeezeBlocks g batch (b + 1) x).1.digit k j)) := by
  obtain ⟨m, rfl⟩ := Nat.exists_eq_add_of_lt hb
  have hlen := squeezeBlocks_length g batch b x
  rw [Nat.add_assoc, squeezeBlocks_add, List.getElem?_append_right (by omega), hlen, squeezeBlocks]
  have hplace : (b * batch + j) * 243 + k - b * batch * 243 = j * 243 + k := by omega
  have hemit := emitBlock_getElem? (squeezeReady g (squeezeBlocks g batch b x).1) hj hk
  obtain ⟨hlt, -⟩ := List.getElem?_eq_some_iff.mp hemit
  rw [hplace, List.getElem?_append_left hlt, hemit, squeezeBlocks_succ_ctx]

end Sys2Proof.Machine
end

section
/-! PROOFS. Batched hashing lane by lane: a lane of a context goes through the one-lane hash of its own digits (42_permutation.md R142,
R147; 43_protocol.md R173, R185). -/

namespace Sys2Proof.Machine

/-! Every context of a hash is exclusive. -/

/-- No lane of the context holds the pair (1, 1) (10_state.md R22). -/
def Context.Exclusive (x : Context) : Prop := ∀ i, (x.cell i).Exclusive

theorem Context.zero_exclusive : Context.zero.Exclusive := fun i => by
  rw [Context.cell_zero]
  exact Cell.zero_exclusive

theorem mergeFirst_exclusive (m : Nat) (vs : List Byte) {x : Context} (hx : x.Exclusive) : (mergeFirst m vs x).Exclusive := by
  induction m with
  | zero => exact hx
  | succ m ih =>
    rw [mergeFirst_succ]
    exact cell_putDigit_of ih (enc_exclusive (ih _) _ _)

theorem mergeBlock_exclusive (batch : Nat) (vs : List Byte) {x : Context} (hx : x.Exclusive) :
    (mergeBlock batch vs x).Exclusive := by
  rw [mergeBlock_eq_mergeFirst]
  exact mergeFirst_exclusive _ vs hx

theorem Context.Exclusive.transformed {x : Context} (hx : x.Exclusive) (g : Config) : (x.transformed g).Exclusive :=
  rounds_cellAt_of roundCount (sbox_exclusive g) hx

theorem absorbBlocks_exclusive (g : Config) (batch n : Nat) (vs : List Byte) {x : Context} (hx : x.Exclusive) :
    (absorbBlocks g batch n vs x).Exclusive := by
  induction n generalizing vs x with
  | zero => exact hx
  | succ n ih => exact ih _ ((mergeBlock_exclusive batch vs hx).transformed g)

theorem absorbBlocks_dir (g : Config) (batch n : Nat) (vs : List Byte) (x : Context) :
    (absorbBlocks g batch n vs x).dir = x.dir := by
  induction n generalizing vs x with
  | zero => rfl
  | succ n ih =>
    rw [absorbBlocks, ih, Context.transformed, mergeBlock_eq_mergeFirst, mergeFirst_dir]

theorem squeezeReady_exclusive (g : Config) {x : Context} (hx : x.Exclusive) : (squeezeReady g x).Exclusive := by
  unfold squeezeReady
  split
  · exact hx.transformed g
  · exact hx

theorem squeezeBlocks_exclusive (g : Config) (batch n : Nat) {x : Context} (hx : x.Exclusive) :
    (squeezeBlocks g batch n x).1.Exclusive := by
  induction n generalizing x with
  | zero => exact hx
  | succ n ih => exact ih (squeezeReady_exclusive g hx)

/-! Lane j. -/

/-- The digits of lane j, cell by cell (00_scope.md R13). -/
def Context.lane (x : Context) (j : Nat) : LaneCells := tabulate fun i : Fin stateSize => x.digit i.val j

theorem Context.getElem_lane (x : Context) (j : Nat) {i : Nat} (hi : i < stateSize) : (x.lane j)[i] = x.digit i j :=
  getElem_tabulate _ i hi

@[simp] theorem Context.lane_setDir (x : Context) (d : Direction) (j : Nat) : (x.setDir d).lane j = x.lane j := rfl

theorem Context.lane_zero (j : Nat) : Context.zero.lane j = Vector.replicate stateSize .zero := by
  apply Vector.ext
  intro i hi
  rw [Context.getElem_lane _ _ hi, Context.digit_zero rfl, Vector.getElem_replicate]

/-- A lane of a round is the round of the lane (42_permutation.md R142). -/
theorem lane_roundOf (g : Config) {x : Context} (hx : x.Exclusive) {j : Nat} (hj : j < g.lanes) :
    ({ x with cells := roundOf g x.cells } : Context).lane j = laneRound g (x.lane j) := by
  apply Vector.ext
  intro i hi
  have hcell : (roundOf g x.cells).cellAt i = sbox g (x.cell (tableEntry g i)) (x.cell (tableEntry g (i + 1))) :=
    roundOf_cellAt g x.cells hi
  rw [Context.getElem_lane _ _ hi, Context.digit, Context.cell_eq_cellAt, hcell, dec_sbox g (hx _) (hx _) hj, laneRound,
    getElem_tabulate, Context.getElem_lane _ _ (Fin.isLt _), Context.getElem_lane _ _ (Fin.isLt _),
    tableEntry_lt g (Nat.lt_succ_of_lt hi), tableEntry_lt g (Nat.succ_lt_succ hi)]
  rfl

theorem lane_rounds (g : Config) (n : Nat) {x : Context} (hx : x.Exclusive) {j : Nat} (hj : j < g.lanes) :
    ({ x with cells := rounds g n x.cells } : Context).lane j = laneRounds g n (x.lane j) := by
  induction n generalizing x with
  | zero => rw [rounds_zero, laneRounds_zero]
  | succ n ih =>
    have hround : ({ x with cells := roundOf g x.cells } : Context).Exclusive := roundOf_cellAt_of (sbox_exclusive g) hx
    rw [rounds_succ, laneRounds_succ, ← lane_roundOf g hx hj, ← ih hround]

/-- A lane of the transform is the transform of the lane (42_permutation.md R147). -/
theorem Context.lane_transformed (g : Config) {x : Context} (hx : x.Exclusive) {j : Nat} (hj : j < g.lanes) :
    (x.transformed g).lane j = laneRounds g roundCount (x.lane j) :=
  lane_rounds g roundCount hx hj

/-! Absorbing. -/

theorem laneOfStream_getD {batch j n q : Nat} (vs : List Byte) (hq : q < n * 243) :
    (laneOfStream batch j n vs).getD q .zero = normOf (vs.getD ((q / 243 * batch + j) * 243 + q % 243) 0#8) := by
  simp [laneOfStream, hq]

/-- The rest of a lane's digits after its first block are its digits in the rest of the stream. -/
theorem laneOfStream_drop (batch j n : Nat) (vs : List Byte) :
    (laneOfStream batch j (n + 1) vs).drop 243 = laneOfStream batch j n (vs.drop (batch * 243)) := by
  have hrange : List.range ((n + 1) * 243) = List.range 243 ++ (List.range (n * 243)).map (243 + ·) := by
    rw [Nat.succ_mul, Nat.add_comm, List.range_add]
  rw [laneOfStream, hrange, List.map_append, List.drop_left' (by rw [List.length_map, List.length_range]), List.map_map]
  refine List.map_congr_left fun q _ => ?_
  have hplace : ((243 + q) / 243 * batch + j) * 243 + (243 + q) % 243 =
      batch * 243 + ((q / 243 * batch + j) * 243 + q % 243) := by
    rw [Nat.add_div_left q (by decide), Nat.add_mod_left]
    ring
  rw [Function.comp_apply, hplace, List.getD_eq_getElem?_getD, List.getD_eq_getElem?_getD, List.getElem?_drop]

/-- Merging a block overwrites the first 243 cells of each lane of the batch with the lane's digits. -/
theorem lane_mergeBlock {batch j n : Nat} (hj : j < batch) (hbatch : batch ≤ 64) (vs : List Byte) (x : Context) :
    (mergeBlock batch vs x).lane j = laneOverwrite (laneOfStream batch j (n + 1) vs) (x.lane j) := by
  obtain ⟨-, hpast, hmerged, -⟩ := mergeWritesTheBatch batch vs x hbatch
  apply Vector.ext
  intro i hi
  rw [Context.getElem_lane _ _ hi, laneOverwrite, getElem_tabulate, Context.getElem_lane _ _ hi, Context.digit]
  dsimp only
  split
  · next hrate =>
    have hlt : i < 243 := hrate
    have hplace : i < (n + 1) * 243 := by omega
    rw [hmerged j i hj hlt, laneOfStream_getD vs hplace, Nat.div_eq_of_lt hlt, Nat.mod_eq_of_lt hlt, Nat.zero_mul,
      Nat.zero_add]
  · next hrate => rw [hpast i (Nat.not_lt.mp hrate), Context.digit]

theorem lane_absorbBlocks {g : Config} {batch j : Nat} (hbatch : batch ≤ g.lanes) (hj : j < batch) (n : Nat) (vs : List Byte)
    {x : Context} (hx : x.Exclusive) :
    (absorbBlocks g batch n vs x).lane j = laneAbsorb g n (laneOfStream batch j n vs) (x.lane j) := by
  induction n generalizing vs x with
  | zero => rfl
  | succ n ih =>
    have hmerged := mergeBlock_exclusive batch vs hx
    rw [absorbBlocks, ih _ (hmerged.transformed g), Context.lane_transformed g hmerged (hj.trans_le hbatch),
      lane_mergeBlock (n := n) hj (hbatch.trans (lanes_le g)), laneAbsorb, laneOfStream_drop]

/-! Squeezing. -/

theorem laneSqueeze_getD {g : Config} {n b k : Nat} (x : LaneCells) (hb : b < n) (hk : k < 243) :
    (laneSqueeze g n x).getD (b * 243 + k) .zero =
      ((laneRounds g roundCount)^[b] x)[k]'(hk.trans (by decide)) := by
  induction n generalizing b x with
  | zero => cases hb
  | succ n ih =>
    have hlen : (laneRate x).length = 243 := by
      rw [laneRate, List.length_take, Vector.length_toList]
      rfl
    rw [laneSqueeze]
    cases b with
    | zero =>
      rw [Nat.zero_mul, Nat.zero_add, List.getD_append _ _ _ _ (hlen ▸ hk), List.getD_eq_getElem _ _ (hlen ▸ hk)]
      simp [laneRate]
    | succ b =>
      have hplace : (b + 1) * 243 + k - 243 = b * 243 + k := by omega
      rw [List.getD_append_right _ _ _ _ (by omega), hlen, hplace, Function.iterate_succ_apply,
        ih _ (Nat.lt_of_succ_lt_succ hb)]

theorem squeezeReady_dir (g : Config) (x : Context) : (squeezeReady g x).dir = .squeezing := rfl

/-- Block b of the output of an Absorbing context is emitted after b transforms (43_protocol.md R178, R179). -/
theorem lane_squeezeBlocks {g : Config} {j : Nat} (hj : j < g.lanes) (batch b : Nat) {x : Context} (hx : x.Exclusive)
    (hdir : x.dir = .absorbing) :
    (squeezeBlocks g batch (b + 1) x).1.lane j = (laneRounds g roundCount)^[b] (x.lane j) := by
  induction b with
  | zero => simp [squeezeBlocks, squeezeReady, hdir]
  | succ b ih =>
    have hready : (squeezeBlocks g batch (b + 1) x).1.dir = .squeezing := by
      rw [squeezeBlocks_succ_ctx, squeezeReady_dir]
    rw [squeezeBlocks_succ_ctx, squeezeReady, if_pos hready, Context.lane_setDir,
      Context.lane_transformed g (squeezeBlocks_exclusive g batch _ hx) hj, ih, Function.iterate_succ_apply']

/-- Settles O57: lane by lane through the blocks in and the blocks out. -/
theorem batchHashIsPerLaneHash : Obligations.BatchHashIsPerLaneHash := by
  intro g batch nIn nOut vs b j k hbatch hj hb hk
  have hlane : j < g.lanes := hj.trans_le hbatch
  have habsorbed := absorbBlocks_exclusive g batch nIn vs Context.zero_exclusive
  rw [List.getD_eq_getElem?_getD, squeezeBlocks_getElem? _ hb hj hk, Option.getD_some, laneHash, laneSqueeze_getD _ hb hk,
    ← Context.lane_zero j, ← lane_absorbBlocks hbatch hj nIn vs Context.zero_exclusive,
    ← lane_squeezeBlocks hlane batch b habsorbed (absorbBlocks_dir g batch nIn vs Context.zero),
    Context.getElem_lane]

end Sys2Proof.Machine
end

section
/-! PROOFS. A command under way: its issue, its micro-steps one after another, and the host's accesses beside it (10_state.md R40, R41;
20_memory.md R76). -/

namespace Sys2Proof.Machine

/-! Runs by counting down: a property that every step keeps while its number falls holds at the end, with 0. -/

theorem execTimes_of_countdown {i : Instr} {P : Nat → State → Prop}
    (hstep : ∀ m u, P (m + 1) u → ∃ t, exec i u = .next t ∧ P m t) {m : Nat} {u : State} (h : P m u) :
    ∃ t, execTimes m i u = .next t ∧ P 0 t := by
  induction m generalizing u with
  | zero => exact ⟨u, rfl, h⟩
  | succ m ih =>
    obtain ⟨t, hexec, ht⟩ := hstep m u h
    simpa only [execTimes, hexec] using ih ht

theorem stepTimes_of_countdown {P : Nat → State → Prop} (hstep : ∀ m u, P (m + 1) u → ∃ t, step u = .next t ∧ P m t)
    {m : Nat} {u : State} (h : P m u) : ∃ t, stepTimes m u = .next t ∧ P 0 t := by
  induction m generalizing u with
  | zero => exact ⟨u, rfl, h⟩
  | succ m ih =>
    obtain ⟨t, hexec, ht⟩ := hstep m u h
    simpa only [stepTimes, hexec] using ih ht

theorem execTimes_succ {m : Nat} {i : Instr} {s t : State} (h : exec i s = .next t) :
    execTimes (m + 1) i s = execTimes m i t := by
  simp only [execTimes, h]

theorem stepTimes_succ {m : Nat} {s t : State} (h : step s = .next t) : stepTimes (m + 1) s = stepTimes m t := by
  simp only [stepTimes, h]

/-- A run of a command writes nothing that no command writes. -/
theorem execTimes_sameOutside {m : Nat} {i : Instr} {s t : State} (h : execTimes m i s = .next t) : SameOutside s t := by
  induction m generalizing s with
  | zero =>
    cases h
    exact ⟨rfl, rfl, rfl, rfl, rfl, rfl, rfl, rfl, rfl⟩
  | succ m ih =>
    obtain ⟨u, hexec⟩ := exec_answers i s
    rw [execTimes_succ hexec] at h
    have hfirst := commandsKeepOutside i s u hexec
    have hrest := ih h
    simp only [SameOutside] at hfirst hrest ⊢
    simpa only [hfirst] using hrest

/-! One step of the machine. -/

/-- Taking a choice uses up an entry of the schedule at most, and counts it. -/
theorem State.afterChoice_eq (s : State) : ∃ ts k, s.afterChoice = { s with turns := ts, clock := k } := by
  unfold State.afterChoice
  split
  · exact ⟨_, _, rfl⟩
  · exact ⟨s.turns, s.clock, rfl⟩

/-- Whatever the schedule says, a step is the latched command's micro-step or the host's oldest input, unless neither agent has one
(20_memory.md R76). -/
theorem step_micro_or_input (s : State) :
    (s.coreEnabled = true ∧ ∃ r ts k, s.run = some r ∧ step s = exec r.cmd { s with turns := ts, clock := k }) ∨
    (∃ x rest ts k, s.inputs = x :: rest ∧ step s = hostInput { s with inputs := rest, turns := ts, clock := k } x) ∨
    (s.coreEnabled = false ∧ s.inputs = []) := by
  obtain ⟨ts, k, hchoice⟩ := s.afterChoice_eq
  rcases step_cases s with ⟨hcore, hstep⟩ | ⟨hhost, hstep⟩ | ⟨hcore, hhost, _⟩
  · obtain ⟨r, hrun⟩ : ∃ r, s.run = some r := by
      rw [← Option.ne_none_iff_exists']
      intro hidle
      simp [State.coreEnabled, hidle] at hcore
    exact .inl ⟨hcore, r, ts, k, hrun, by rw [hstep, hchoice]; exact coreStep_running hrun⟩
  · obtain ⟨x, rest, hinputs⟩ := List.exists_cons_of_ne_nil (l := s.inputs) (by simpa [State.hostEnabled] using hhost)
    exact .inr (.inl ⟨x, rest, ts, k, hinputs, by rw [hstep, hchoice]; exact hostStep_oldest hinputs⟩)
  · exact .inr (.inr ⟨hcore, by simpa [State.hostEnabled] using hhost⟩)

/-! A command under way. -/

/-- The state that a passed issue of command `i` leaves (10_state.md R40). -/
def State.latch (s : State) (i : Instr) : State := { s with run := some ⟨i, s.len, startPos i s.len⟩ }

/-- Command `i`, issued in state `s` and writing context `c`, is in state `u` at position `pos`; `none` once it has ended. The host
has changed at most the FIFOs and its own side (43_protocol.md R172, R178). -/
structure Underway (i : Instr) (c : CtxIdx) (s : State) (pos : Option Pos) (u : State) : Prop where
  run : u.run = pos.map fun p => ⟨i, s.len, p⟩
  err : pos = none → u.err = .ok
  fatal : u.fatal = false
  fits : u.SequencerFits
  beside : SameBeside c s u

section
variable {i : Instr} {c : CtxIdx} {s u t : State} {p : Pos} {pos : Option Pos}

/-- The position is one of the command's, its counters in range. -/
theorem Underway.position (h : Underway i c s (some p) u) : Running.Fits ⟨i, s.len, p⟩ u := h.fits _ h.run

/-- The schedule, the host's side and the FIFOs say nothing of a command under way. -/
theorem Underway.world (h : Underway i c s pos u) (inFifo outFifo : List Byte) (inputs : List HostInput) (seen : List Word)
    (turns : List Agent) (clock : Nat) :
    Underway i c s pos { u with
      inFifo := inFifo, outFifo := outFifo, inputs := inputs, seen := seen, turns := turns, clock := clock } :=
  ⟨h.run, h.err, h.fatal, h.fits, h.beside⟩

/-- A command that passes its checks is under way after its issue. -/
theorem Underway.issued (hfatal : s.fatal = false) (hrun : s.run = none) (hchecks : issueError i s = none)
    (inputs : List HostInput) :
    exec i { s with inputs := inputs } = .next ({ s with inputs := inputs }.latch i) ∧
      Underway i c s (some (startPos i s.len)) ({ s with inputs := inputs }.latch i) := by
  have hpass : issueError i { s with inputs := inputs } = none := by cases i <;> exact hchecks
  have hfits := fits_startPos ((firstFailure_issueChecks i s).trans hchecks)
  refine ⟨exec_issued (s := { s with inputs := inputs }) hfatal hrun hpass, rfl, by simp, hfatal, fun r hr => ?_,
    rfl, rfl, rfl, rfl, rfl, rfl, fun _ _ => rfl⟩
  cases hr
  exact hfits.congr rfl fun _ => rfl

/-- What a micro-step of a command that writes context c leaves alone. -/
theorem MicroEffect.sameBeside {r : Running} (h : MicroEffect u r i t) (hc : commandTarget i = some c) (hs : SameBeside c s u) :
    SameBeside c s t := by
  obtain ⟨hcfg, hlen, hresult, hover, hin, hout, hother⟩ := hs
  obtain ⟨hcfg', hlen', hover', hin', hout', -⟩ := h.sameOutside
  have hresult' : t.result = u.result := h.result.resolve_right fun ⟨_, _, _, hi, _⟩ => by simp [hi, commandTarget] at hc
  exact ⟨hcfg'.trans hcfg, hlen'.trans hlen, hresult'.trans hresult, hover'.trans hover, hin'.trans hin, hout'.trans hout,
    fun d hd => (h.ctx_other fun hd' => hd (Option.some.inj (hd'.symm.trans hc))).trans (hother d hd)⟩

/-- A micro-step leaves the command under way at the next position, or ended. -/
theorem Underway.micro (h : Underway i c s (some p) u) (hc : commandTarget i = some c)
    (hmicro : MicroEffect u ⟨i, s.len, p⟩ i t) (hrun : t.run = pos.map fun p => ⟨i, s.len, p⟩)
    (herr : pos = none → t.err = .ok) : Underway i c s pos t :=
  ⟨hrun, herr, hmicro.status.1.trans h.fatal, hmicro.sequencerFits h.run h.position, hmicro.sameBeside hc h.beside⟩

theorem Underway.endedOn (h : Underway i c s none t) (hfatal : s.fatal = false) (houtside : SameOutside s t) : EndedOn c s t := by
  obtain ⟨-, -, hresult, -, -, -, hother⟩ := h.beside
  exact ⟨h.run, h.err rfl, h.fatal.trans hfatal.symm, hresult, houtside, hother⟩

end

theorem blockCount_eq (len : Word) : len.toNat / 243 = blockCount len := rfl

/-- A length in whole blocks, for the batch. -/
theorem batch_mul_length {len : Nat} (batch : Nat) (h : len % 243 = 0) : batch * len = len / 243 * batch * 243 := by
  rw [Nat.mul_right_comm, Nat.div_mul_cancel (Nat.dvd_of_mod_eq_zero h), Nat.mul_comm]

end Sys2Proof.Machine
end

section
/-! PROOFS. ABSORB from its issue to its end, alone and with the host beside it (43_protocol.md R172, R173, R176; 20_memory.md R72, R76;
70_reset_and_hazards.md R242, R243). -/

namespace Sys2Proof.Machine

/-! The place of a position in the stream. -/

/-- Where ABSORB stands before a position: the blocks done, and the entries of the next one merged; at its end, all blocks. -/
def absorbPlace (batch blocks : Nat) : Option Pos → Nat × Nat
  | some (.merge b j k) => (b, j * 243 + k)
  | some (.transform b) => (b, batch * 243)
  | some _ => (blocks, 0)
  | none => (blocks, 0)

/-- The entries taken before a place. -/
def absorbTaken (batch : Nat) (place : Nat × Nat) : Nat := place.1 * batch * 243 + place.2

/-- The context at a place: whole blocks absorbed, and the first merges of the next. -/
def absorbedTo (g : Config) (batch : Nat) (vs : List Byte) (x : Context) (place : Nat × Nat) : Context :=
  mergeFirst place.2 (vs.drop (place.1 * batch * 243)) (absorbBlocks g batch place.1 vs x)

/-- How many micro-steps ABSORB still makes where it never stalls, `complete()` included. -/
def absorbLeft (batch blocks : Nat) : Option Pos → Nat
  | none => 0
  | some p =>
    (blocks - (absorbPlace batch blocks (some p)).1) * (batch * 243 + 1) - (absorbPlace batch blocks (some p)).2 + 1

section
variable {batch b j k : Nat}

/-- After a merge one entry more is merged (43_protocol.md R173). -/
theorem absorbPlace_next (blocks : Nat) (hj : j < batch) (hk : k < 243) :
    absorbPlace batch blocks (some (absorbNext batch b j k)) = (b, j * 243 + k + 1) := by
  rw [absorbNext_eq]
  split_ifs <;> simp only [absorbPlace, Prod.mk.injEq, true_and] <;> omega

/-- Before a block nothing of it is merged; past the last block ABSORB is done. -/
theorem absorbPlace_block {len : Word} (batch : Nat) (hb : b ≤ blockCount len) :
    absorbPlace batch (blockCount len) (some (absorbBlock len b)) = (b, 0) := by
  unfold absorbBlock
  split_ifs
  · simp [absorbPlace]
  · simp only [absorbPlace, Prod.mk.injEq, and_true]
    omega

theorem absorbLeft_next {blocks : Nat} (hb : b < blocks) (hj : j < batch) (hk : k < 243) :
    absorbLeft batch blocks (some (.merge b j k)) = absorbLeft batch blocks (some (absorbNext batch b j k)) + 1 := by
  have hblock : 1 * (batch * 243 + 1) ≤ (blocks - b) * (batch * 243 + 1) := Nat.mul_le_mul_right _ (by omega)
  rw [absorbLeft, absorbLeft, absorbPlace_next blocks hj hk, absorbPlace]
  dsimp only
  omega

theorem absorbLeft_transform {len : Word} (batch : Nat) (hb : b < blockCount len) :
    absorbLeft batch (blockCount len) (some (.transform b)) =
      absorbLeft batch (blockCount len) (some (absorbBlock len (b + 1))) + 1 := by
  have hblocks : blockCount len - b = blockCount len - (b + 1) + 1 := by omega
  rw [absorbLeft, absorbLeft, absorbPlace_block batch (b := b + 1) hb, absorbPlace]
  dsimp only
  rw [hblocks, Nat.add_one_mul]
  omega

theorem absorbLeft_finish (batch blocks : Nat) : absorbLeft batch blocks (some .finish) = 1 := by
  simp [absorbLeft, absorbPlace]

/-- The last merge of a block and the transform after it end the block. -/
theorem absorbedTo_block (g : Config) (batch b : Nat) (vs : List Byte) (x : Context) :
    (absorbedTo g batch vs x (b, batch * 243)).transformed g = absorbedTo g batch vs x (b + 1, 0) := by
  rw [absorbedTo, absorbedTo, mergeFirst_zero, absorbBlocks_add, absorbBlocks, absorbBlocks, mergeBlock_eq_mergeFirst,
    ← Nat.mul_assoc]

end

/-! ABSORB under way. -/

/-- ABSORB of the stream `vs` is under way: what stands before its place has been absorbed, and the rest is queued but for `ws`,
which the host has still to push. -/
structure Absorbing (c : CtxIdx) (n : BitVec 7) (s : State) (vs ws : List Byte) (pos : Option Pos) (u : State) : Prop where
  underway : Underway (.absorb c n) c s pos u
  ctx : u.ctx c = absorbedTo s.cfg n.toNat vs (s.ctx c) (absorbPlace n.toNat (blockCount s.len) pos)
  queue : u.inFifo ++ ws = vs.drop (absorbTaken n.toNat (absorbPlace n.toNat (blockCount s.len) pos))
  outFifo : u.outFifo = s.outFifo
  seen : u.seen = s.seen

section
variable {c : CtxIdx} {n : BitVec 7} {s u t : State} {vs ws : List Byte} {p : Pos} {pos : Option Pos}

/-- A micro-step to the next position, with the new context and the new queue. -/
theorem Absorbing.micro (h : Absorbing c n s vs ws (some p) u) (hmicro : MicroEffect u ⟨.absorb c n, s.len, p⟩ (.absorb c n) t)
    (hrun : t.run = pos.map fun p => ⟨.absorb c n, s.len, p⟩) (herr : pos = none → t.err = .ok)
    (hctx : t.ctx c = absorbedTo s.cfg n.toNat vs (s.ctx c) (absorbPlace n.toNat (blockCount s.len) pos))
    (hqueue : t.inFifo ++ ws = vs.drop (absorbTaken n.toNat (absorbPlace n.toNat (blockCount s.len) pos))) :
    Absorbing c n s vs ws pos t where
  underway := h.underway.micro rfl hmicro hrun herr
  ctx := hctx
  queue := hqueue
  outFifo := (hmicro.outFifo.resolve_right fun ⟨⟨_, _, hi⟩, _⟩ => nomatch hi).trans h.outFifo
  seen := by
    obtain ⟨-, -, -, -, -, -, hseen, -⟩ := hmicro.sameOutside
    exact hseen.trans h.seen

/-- The oldest entry queued is the stream's next one. -/
theorem Absorbing.head {v : Byte} {rest : List Byte} {taken q : Nat} (h : v :: rest ++ ws = vs.drop (taken + q)) :
    (vs.drop taken).getD q 0#8 = v ∧ rest ++ ws = vs.drop (taken + (q + 1)) := by
  constructor
  · rw [List.getD_eq_getElem?_getD, List.getElem?_drop, ← List.head?_drop, ← h]
    rfl
  · rw [← Nat.add_assoc, ← List.tail_drop, ← h]
    rfl

/-- A merge writes the stream's next digit at its place (43_protocol.md R172, R173). -/
theorem Absorbing.merge {b j k : Nat} {v : Byte} {rest : List Byte} (h : Absorbing c n s vs ws (some (.merge b j k)) u)
    (hfifo : u.inFifo = v :: rest) (hj : j < n.toNat) (hk : k < 243) :
    Absorbing c n s vs ws (some (absorbNext n.toNat b j k))
      ({ u.setCtx c ((u.ctx c).putDigit k j (normOf v)) with inFifo := rest }.advance (absorbNext n.toNat b j k)) := by
  have hplace := absorbPlace_next (b := b) (blockCount s.len) hj hk
  obtain ⟨hv, hrest⟩ := Absorbing.head (hfifo ▸ h.queue)
  obtain ⟨hmod, hdiv⟩ := entryPlace_mod_div (j := j) hk
  refine h.micro (.merge c n rfl hfifo) (by simp [h.underway.run]) (by simp) ?_ (by rw [hplace]; exact hrest)
  calc _ = (u.ctx c).putDigit k j (normOf v) := u.ctx_setCtx_self c _
    _ = _ := by rw [hplace, h.ctx, ← hv, absorbedTo, absorbedTo, mergeFirst_succ, absorbPlace, hmod, hdiv]

/-- The transform after a block's last merge ends the block. -/
theorem Absorbing.transform {b : Nat} (h : Absorbing c n s vs ws (some (.transform b)) u) (hb : b < blockCount s.len) :
    Absorbing c n s vs ws (some (absorbBlock s.len (b + 1))) ((u.transform c).advance (absorbBlock s.len (b + 1))) := by
  have hplace := absorbPlace_block n.toNat (Nat.succ_le_of_lt hb)
  obtain ⟨hcfg, -⟩ := h.underway.beside
  refine h.micro (.absorbTransform c n rfl) (by simp [h.underway.run]) (by simp) ?_ ?_
  · calc _ = (u.ctx c).transformed u.cfg := u.ctx_transform_self c
      _ = _ := by rw [hplace, h.ctx, hcfg, absorbPlace, absorbedTo_block]
  · have htaken : absorbTaken n.toNat (b, n.toNat * 243) = absorbTaken n.toNat (b + 1, 0) := by
      simp only [absorbTaken]
      ring
    rw [hplace, ← htaken]
    exact h.queue

/-- `complete()` ends ABSORB with everything absorbed. -/
theorem Absorbing.finish (h : Absorbing c n s vs ws (some .finish) u) : Absorbing c n s vs ws none u.complete :=
  h.micro (.finish _) rfl (fun _ => rfl) h.ctx h.queue

/-- An enabled micro-step of ABSORB is the loop's next step, and leaves one step less to go (43_protocol.md R172). -/
theorem Absorbing.coreStep (h : Absorbing c n s vs ws (some p) u) (hcore : u.coreEnabled = true) :
    ∃ t pos, exec (.absorb c n) u = .next t ∧ Absorbing c n s vs ws pos t ∧ t.inputs = u.inputs ∧
      absorbLeft n.toNat (blockCount s.len) (some p) = absorbLeft n.toNat (blockCount s.len) pos + 1 := by
  have hexec : exec (.absorb c n) u = .next (absorbStep c n u ⟨.absorb c n, s.len, p⟩) :=
    exec_busy h.underway.fatal h.underway.run
  obtain ⟨-, -, -, hat⟩ := h.underway.position
  cases p with
  | merge b j k =>
    obtain ⟨hb, hj, hk⟩ : b < blockCount s.len ∧ j < n.toNat ∧ k < 243 := hat
    obtain ⟨v, rest, hfifo⟩ : ∃ v rest, u.inFifo = v :: rest := by
      apply List.exists_cons_of_ne_nil
      intro hempty
      simp [State.coreEnabled, h.underway.run, hempty] at hcore
    rw [absorbStep_merge rfl hfifo] at hexec
    exact ⟨_, _, hexec, h.merge hfifo hj hk, rfl, absorbLeft_next hb hj hk⟩
  | transform b =>
    rw [absorbStep_transform rfl] at hexec
    exact ⟨_, _, hexec, h.transform hat, rfl, absorbLeft_transform n.toNat hat⟩
  | finish =>
    rw [absorbStep_finish rfl] at hexec
    exact ⟨_, _, hexec, h.finish, rfl, absorbLeft_finish n.toNat _⟩
  | _ => exact hat.elim

/-- Where the host has nothing more to push, and has pushed enough, ABSORB does not stall. -/
theorem Absorbing.enabled (h : Absorbing c n s vs [] (some p) u) (henough : blockCount s.len * n.toNat * 243 ≤ vs.length) :
    u.coreEnabled = true := by
  obtain ⟨-, -, -, hat⟩ := h.underway.position
  cases p with
  | merge b j k =>
    obtain ⟨hb, hj, hk⟩ : b < blockCount s.len ∧ j < n.toNat ∧ k < 243 := hat
    have hblock : (b + 1) * n.toNat ≤ blockCount s.len * n.toNat := Nat.mul_le_mul_right _ hb
    have hlen := congrArg List.length h.queue
    rw [List.append_nil, List.length_drop, absorbPlace, absorbTaken] at hlen
    dsimp only at hlen
    have hne : u.inFifo ≠ [] := by
      intro hempty
      rw [hempty, List.length_nil] at hlen
      rw [Nat.succ_mul] at hblock
      omega
    simp [State.coreEnabled, h.underway.fatal, h.underway.run, hne]
  | transform _ | finish => simp [State.coreEnabled, h.underway.fatal, h.underway.run]
  | _ => exact hat.elim

/-! The issue and the end. -/

theorem absorb_passes (hc : c.toNat < s.cfg.ctxCount) (hpos : 1 ≤ n.toNat) (hn : n.toNat ≤ s.cfg.lanes)
    (hlen : s.len.toNat % 243 = 0) (hdir : (s.ctx c).dir = .absorbing) : issueError (.absorb c n) s = none := by
  have hbatch : ¬(n.toNat = 0 ∨ s.cfg.lanes < n.toNat) := by omega
  simp [issueError, hc.not_ge, hbatch, hlen, hdir]

theorem Absorbing.issued (hfatal : s.fatal = false) (hrun : s.run = none) (hchecks : issueError (.absorb c n) s = none)
    (ws : List Byte) (inputs : List HostInput) :
    exec (.absorb c n) { s with inputs := inputs } = .next ({ s with inputs := inputs }.latch (.absorb c n)) ∧
      Absorbing c n s (s.inFifo ++ ws) ws (some (absorbBlock s.len 0))
        ({ s with inputs := inputs }.latch (.absorb c n)) := by
  obtain ⟨hexec, hunderway⟩ := Underway.issued (c := c) hfatal hrun hchecks inputs
  have hplace := absorbPlace_block (len := s.len) n.toNat (Nat.zero_le _)
  refine ⟨hexec, hunderway, ?_, ?_, rfl, rfl⟩
  · rw [hplace, absorbedTo, mergeFirst_zero]
    rfl
  · simp [hplace, absorbTaken, State.latch]

theorem absorbSteps_eq (batch : Nat) (len : Word) :
    absorbSteps batch len.toNat = absorbLeft batch (blockCount len) (some (absorbBlock len 0)) + 1 := by
  rw [absorbLeft, absorbPlace_block batch (Nat.zero_le _), absorbSteps, blockCount_eq]
  dsimp only
  rw [Nat.sub_zero, Nat.sub_zero, Nat.add_comm 2]

theorem eq_none_of_absorbLeft {batch blocks : Nat} (h : absorbLeft batch blocks pos = 0) : pos = none := by
  cases pos with
  | none => rfl
  | some p => cases h

theorem Absorbing.ended (h : Absorbing c n s vs ws none t) (hlen : s.len.toNat % 243 = 0) :
    t.ctx c = absorbBlocks s.cfg n.toNat (s.len.toNat / 243) vs (s.ctx c) ∧
      t.inFifo ++ ws = vs.drop (n.toNat * s.len.toNat) := by
  refine ⟨h.ctx, h.queue.trans ?_⟩
  rw [batch_mul_length n.toNat hlen, blockCount_eq, absorbTaken, absorbPlace, Nat.add_zero]

/-! ABSORB alone. -/

/-- ABSORB, everything it takes queued at its issue, has `m` micro-steps to go. -/
def AbsorbingAlone (c : CtxIdx) (n : BitVec 7) (s : State) (m : Nat) (u : State) : Prop :=
  ∃ pos, Absorbing c n s s.inFifo [] pos u ∧ absorbLeft n.toNat (blockCount s.len) pos = m

theorem AbsorbingAlone.step {m : Nat} (henough : blockCount s.len * n.toNat * 243 ≤ s.inFifo.length)
    (h : AbsorbingAlone c n s (m + 1) u) : ∃ t, exec (.absorb c n) u = .next t ∧ AbsorbingAlone c n s m t := by
  obtain ⟨pos, h, hleft⟩ := h
  cases pos with
  | none => cases hleft
  | some p =>
    obtain ⟨t, pos, hexec, ht, _, hless⟩ := h.coreStep (h.enabled henough)
    exact ⟨t, hexec, pos, ht, by omega⟩

end

/-- Settles O55: with everything queued no micro-step stalls, so that each leaves one step less to go. -/
theorem absorbRunsToCompletion : Obligations.AbsorbRunsToCompletion := by
  intro c n s hfatal hrun hc hpos hn hlen hdir henough
  obtain ⟨hissue, hstart⟩ := Absorbing.issued hfatal hrun (absorb_passes hc hpos hn hlen hdir) [] s.inputs
  rw [List.append_nil] at hstart
  rw [batch_mul_length n.toNat hlen] at henough
  obtain ⟨t, hrest, pos, hend, hleft⟩ :=
    execTimes_of_countdown (fun _ _ => AbsorbingAlone.step henough) ⟨_, hstart, rfl⟩
  cases eq_none_of_absorbLeft hleft
  have hsteps : execTimes (absorbSteps n.toNat s.len.toNat) (.absorb c n) s = .next t := by
    rw [absorbSteps_eq, execTimes_succ hissue, hrest]
  obtain ⟨hctx, hqueue⟩ := hend.ended hlen
  exact ⟨t, hsteps, hctx, (List.append_nil _).symm.trans hqueue, hend.outFifo,
    hend.underway.endedOn hfatal (execTimes_sameOutside hsteps)⟩

/-! The host beside it. -/

section
variable {c : CtxIdx} {n : BitVec 7} {s u : State} {vs ws : List Byte} {pos : Option Pos}

theorem Absorbing.world (h : Absorbing c n s vs ws pos u) (inputs : List HostInput) (turns : List Agent) (clock : Nat) :
    Absorbing c n s vs ws pos { u with inputs := inputs, turns := turns, clock := clock } :=
  ⟨h.underway.world _ _ _ _ _ _, h.ctx, h.queue, h.outFifo, h.seen⟩

/-- The byte that a DIN write takes from its word (20_memory.md R72). -/
theorem extract_setWidth (v : Byte) : (v.setWidth 32).extractLsb' 0 8 = v := by
  rw [BitVec.extractLsb'_setWidth_of_le (by decide), BitVec.extractLsb'_eq_self]

/-- A push of the host joins the queue, which has room for the whole stream (20_memory.md R72). -/
theorem Absorbing.push {v : Byte} (h : Absorbing c n s vs (v :: ws) pos u) (hroom : vs.length ≤ s.cfg.ififoDepth) :
    ∃ t, hostInput u (asmPush v) = .next t ∧ Absorbing c n s vs ws pos t ∧ t.inputs = u.inputs := by
  obtain ⟨hcfg, -⟩ := h.underway.beside
  have hlen := congrArg List.length h.queue
  rw [List.length_append, List.length_cons, List.length_drop] at hlen
  have hfree : u.inFifo.length < u.cfg.ififoDepth := by
    rw [hcfg]
    omega
  have hpush := (inputFifoPush u (v.setWidth 32)).1 h.underway.fatal hfree
  rw [extract_setWidth] at hpush
  refine ⟨_, hpush, ⟨h.underway.world _ _ _ _ _ _, h.ctx, ?_, h.outFifo, h.seen⟩, rfl⟩
  rw [← h.queue]
  exact List.append_assoc _ _ _

/-- ABSORB, fed by the host, has `m` steps to go: its micro-steps and the pushes still to come. -/
def AbsorbingFed (c : CtxIdx) (n : BitVec 7) (s : State) (vs : List Byte) (m : Nat) (u : State) : Prop :=
  ∃ pos ws, Absorbing c n s vs ws pos u ∧ u.inputs = ws.map asmPush ∧
    absorbLeft n.toNat (blockCount s.len) pos + ws.length = m

/-- Whoever moves, one step less is to go: the micro-step is made or the entry is pushed; a stall waits for a push
(70_reset_and_hazards.md R242, R243). -/
theorem AbsorbingFed.step {m : Nat} (henough : blockCount s.len * n.toNat * 243 ≤ vs.length)
    (hroom : vs.length ≤ s.cfg.ififoDepth) (h : AbsorbingFed c n s vs (m + 1) u) :
    ∃ t, Machine.step u = .next t ∧ AbsorbingFed c n s vs m t := by
  obtain ⟨pos, ws, h, hinputs, hleft⟩ := h
  rcases step_micro_or_input u with
    ⟨hcore, r, ts, k, hrun, hstep⟩ | ⟨x, rest, ts, k, hx, hstep⟩ | ⟨hcore, hempty⟩
  · cases pos with
    | none => cases h.underway.run.symm.trans hrun
    | some p =>
      cases h.underway.run.symm.trans hrun
      obtain ⟨t, pos', hexec, ht, hkeep, hless⟩ := (h.world u.inputs ts k).coreStep hcore
      exact ⟨t, hstep.trans hexec, pos', ws, ht, hkeep.trans hinputs, by omega⟩
  · obtain ⟨v, ws', rfl, rfl, rfl⟩ := List.map_eq_cons_iff.mp (hinputs.symm.trans hx)
    obtain ⟨t, hpush, ht, hkeep⟩ := (h.world (ws'.map asmPush) ts k).push hroom
    exact ⟨t, hstep.trans hpush, pos, ws', ht, hkeep, Nat.succ.inj hleft⟩
  · cases List.map_eq_nil_iff.mp (hinputs.symm.trans hempty)
    cases pos with
    | none => cases hleft
    | some p => cases hcore.symm.trans (h.enabled henough)

end

/-- Settles O59: the micro-steps and the pushes still to come fall by one with every step, whoever makes it. -/
theorem absorbTakesInputAsItComes : Obligations.AbsorbTakesInputAsItComes := by
  intro c n vs s hfatal hrun hc hpos hn hlen hdir henough hroom hinputs
  obtain ⟨hissue, hstart⟩ := Absorbing.issued hfatal hrun (absorb_passes hc hpos hn hlen hdir) vs (vs.map asmPush)
  rw [batch_mul_length n.toNat hlen, ← List.length_append] at henough
  rw [← List.length_append] at hroom
  have hfirst := (step_issues hfatal hrun hinputs (decodeOfEncode _)).trans hissue
  obtain ⟨t, hrest, pos, ws, hend, hnone, hleft⟩ :=
    stepTimes_of_countdown (fun _ _ => AbsorbingFed.step henough hroom) ⟨_, vs, hstart, rfl, rfl⟩
  obtain ⟨hpos0, hws0⟩ := Nat.add_eq_zero_iff.mp hleft
  cases eq_none_of_absorbLeft hpos0
  cases List.length_eq_zero_iff.mp hws0
  obtain ⟨hctx, hqueue⟩ := hend.ended hlen
  refine ⟨t, ?_, hctx, (List.append_nil _).symm.trans hqueue, hend.outFifo, hend.underway.run, hend.underway.err rfl,
    hend.underway.fatal, hnone, hend.seen, hend.underway.beside⟩
  rw [absorbSteps_eq, Nat.succ_add, stepTimes_succ hfirst, hrest]

end Sys2Proof.Machine
end

section
/-! PROOFS. SQUEEZE from its issue to its end, alone and with the host beside it (43_protocol.md R173, R178 to R180; 20_memory.md R73,
R76; 70_reset_and_hazards.md R242). -/

namespace Sys2Proof.Machine

@[simp] theorem Context.transformed_dir (g : Config) (x : Context) : (x.transformed g).dir = x.dir := rfl

/-! What a position says of the loop. -/

/-- The entries emitted before a position. -/
def squeezeEmitted (batch blocks : Nat) : Option Pos → Nat
  | some (.blockStart b) => b * batch * 243
  | some (.direction b) => b * batch * 243
  | some (.emit b j k) => (b * batch + j) * 243 + k
  | some .finish => blocks * batch * 243
  | none => blocks * batch * 243
  | some _ => 0

/-- The context before a position: a block is emitted from the context that it leaves. -/
def squeezedTo (g : Config) (batch blocks : Nat) (x : Context) : Option Pos → Context
  | some (.blockStart b) => (squeezeBlocks g batch b x).1
  | some (.direction b) => (squeezeBlocks g batch b x).1.transformed g
  | some (.emit b _ _) => (squeezeBlocks g batch (b + 1) x).1
  | some .finish => (squeezeBlocks g batch blocks x).1
  | none => (squeezeBlocks g batch blocks x).1
  | some _ => x

/-- How many micro-steps SQUEEZE still makes from a context of direction `d` where it never stalls, `complete()` included. -/
def squeezeLeft (d : Direction) (batch blocks : Nat) : Option Pos → Nat
  | none => 0
  | some (.blockStart b) =>
    (if d = .squeezing then 2 else 1) + batch * 243 + (blocks - (b + 1)) * (batch * 243 + 2) + 1
  | some (.direction b) => 1 + batch * 243 + (blocks - (b + 1)) * (batch * 243 + 2) + 1
  | some (.emit b j k) => batch * 243 - (j * 243 + k) + (blocks - (b + 1)) * (batch * 243 + 2) + 1
  | some _ => 1

section
variable {batch b j k : Nat} {len : Word}

theorem squeezeEmitted_block (batch : Nat) (hb : b ≤ blockCount len) :
    squeezeEmitted batch (blockCount len) (some (squeezeBlock len b)) = b * batch * 243 := by
  unfold squeezeBlock
  split
  · rfl
  · rw [squeezeEmitted, show blockCount len = b by omega]

theorem squeezedTo_block (g : Config) (batch : Nat) (x : Context) (hb : b ≤ blockCount len) :
    squeezedTo g batch (blockCount len) x (some (squeezeBlock len b)) = (squeezeBlocks g batch b x).1 := by
  unfold squeezeBlock
  split
  · rfl
  · rw [squeezedTo, show blockCount len = b by omega]

/-- After an emit one entry more is emitted (43_protocol.md R173). -/
theorem squeezeEmitted_next (hb : b < blockCount len) (hj : j < batch) (hk : k < 243) :
    squeezeEmitted batch (blockCount len) (some (squeezeNext len batch b j k)) = (b * batch + j) * 243 + k + 1 := by
  rw [squeezeNext_eq]
  split_ifs
  · rw [squeezeEmitted, Nat.add_assoc]
  · rw [squeezeEmitted]
    omega
  · rw [squeezeEmitted_block batch hb, Nat.succ_mul]
    omega

theorem squeezedTo_next (g : Config) (batch j k : Nat) (x : Context) (hb : b < blockCount len) :
    squeezedTo g batch (blockCount len) x (some (squeezeNext len batch b j k)) = (squeezeBlocks g batch (b + 1) x).1 := by
  rw [squeezeNext_eq]
  split_ifs
  · rfl
  · rfl
  · exact squeezedTo_block g batch x hb

theorem squeezeLeft_next (hj : j < batch) (hk : k < 243) :
    squeezeLeft .squeezing batch (blockCount len) (some (.emit b j k)) =
      squeezeLeft .squeezing batch (blockCount len) (some (squeezeNext len batch b j k)) + 1 := by
  rw [squeezeNext_eq, squeezeLeft]
  split_ifs
  · rw [squeezeLeft]
    omega
  · rw [squeezeLeft]
    omega
  · unfold squeezeBlock
    split_ifs with hnext
    · have hblocks : blockCount len - (b + 1) = blockCount len - (b + 1 + 1) + 1 := by omega
      rw [squeezeLeft, if_pos rfl, hblocks, Nat.add_one_mul]
      omega
    · have hblocks : blockCount len - (b + 1) = 0 := by omega
      rw [hblocks, Nat.zero_mul]
      simp only [squeezeLeft]
      omega

theorem squeezeSteps_eq (d : Direction) (batch : Nat) (len : Word) :
    squeezeSteps d batch len.toNat = squeezeLeft d batch (blockCount len) (some (squeezeBlock len 0)) + 1 := by
  have hblocks : 0 < blockCount len ↔ 243 ≤ len.toNat := by rw [← blockCount_eq]; omega
  simp only [squeezeSteps, blockCount_eq, squeezeBlock, ← hblocks]
  rcases Nat.eq_zero_or_eq_succ_pred (blockCount len) with hzero | hsucc
  · simp [hzero, squeezeLeft]
  · rw [hsucc, Nat.succ_mul]
    cases d <;> simp [squeezeLeft] <;> omega

end

/-! SQUEEZE under way. -/

/-- SQUEEZE is under way: what the loop emits before its position has joined the output FIFO, and the host has read the `popped` oldest
entries of those queued at the issue. -/
structure Squeezing (c : CtxIdx) (n : BitVec 7) (s : State) (popped : Nat) (pos : Option Pos) (u : State) : Prop where
  underway : Underway (.squeeze c n) c s pos u
  ctx : u.ctx c = squeezedTo s.cfg n.toNat (blockCount s.len) (s.ctx c) pos
  outFifo : u.outFifo = s.outFifo.drop popped ++
    (squeezeBlocks s.cfg n.toNat (blockCount s.len) (s.ctx c)).2.take (squeezeEmitted n.toNat (blockCount s.len) pos)
  seen : u.seen = ((s.outFifo.take popped).map fun v => v.signExtend 32).reverse ++ s.seen
  inFifo : u.inFifo = s.inFifo

section
variable {c : CtxIdx} {n : BitVec 7} {s u t : State} {popped b j k : Nat} {p : Pos} {pos : Option Pos}

/-- A micro-step to the next position, with the new context and the new queue. -/
theorem Squeezing.micro (h : Squeezing c n s popped (some p) u)
    (hmicro : MicroEffect u ⟨.squeeze c n, s.len, p⟩ (.squeeze c n) t)
    (hrun : t.run = pos.map fun p => ⟨.squeeze c n, s.len, p⟩) (herr : pos = none → t.err = .ok)
    (hctx : t.ctx c = squeezedTo s.cfg n.toNat (blockCount s.len) (s.ctx c) pos)
    (hout : t.outFifo = s.outFifo.drop popped ++
      (squeezeBlocks s.cfg n.toNat (blockCount s.len) (s.ctx c)).2.take (squeezeEmitted n.toNat (blockCount s.len) pos)) :
    Squeezing c n s popped pos t where
  underway := h.underway.micro rfl hmicro hrun herr
  ctx := hctx
  outFifo := hout
  seen := by
    obtain ⟨-, -, -, -, -, -, hseen, -⟩ := hmicro.sameOutside
    exact hseen.trans h.seen
  inFifo := (hmicro.inFifo.resolve_right fun ⟨⟨_, _, hi⟩, _⟩ => nomatch hi).trans h.inFifo

/-- The transform that begins a block of a Squeezing context. -/
theorem Squeezing.transform (h : Squeezing c n s popped (some (.blockStart b)) u) (hdir : (u.ctx c).dir = .squeezing) :
    Squeezing c n s popped (some (.direction b)) ((u.transform c).advance (.direction b)) := by
  obtain ⟨hcfg, -⟩ := h.underway.beside
  refine h.micro (.squeezeTransform c n rfl hdir) (by simp [h.underway.run]) (by simp) ?_ h.outFifo
  calc _ = (u.ctx c).transformed u.cfg := u.ctx_transform_self c
    _ = _ := by rw [h.ctx, hcfg]; rfl

/-- The direction write of a block, after its transform or in its stead. -/
theorem Squeezing.direction (h : Squeezing c n s popped (some p) u)
    (hp : p = .direction b ∧ (u.ctx c).dir = .squeezing ∨ p = .blockStart b ∧ (u.ctx c).dir = .absorbing) :
    Squeezing c n s popped (some (.emit b 0 0)) (directionWrite c b u) := by
  refine h.micro (.direction c n (hp.imp And.left And.left)) (by simp [directionWrite, h.underway.run]) (by simp) ?_ ?_
  · rw [directionWrite_ctx, squeezedTo, squeezeBlocks_succ_ctx, squeezeReady, h.ctx]
    rcases hp with ⟨rfl, hdir⟩ | ⟨rfl, hdir⟩ <;> rw [h.ctx, squeezedTo] at hdir
    · rw [Context.transformed_dir] at hdir
      rw [if_pos hdir, squeezedTo]
    · rw [if_neg (by simp [hdir]), squeezedTo]
  · have hemitted : squeezeEmitted n.toNat (blockCount s.len) (some (.emit b 0 0)) = b * n.toNat * 243 := by
      rw [squeezeEmitted, Nat.add_zero, Nat.add_zero]
    rw [hemitted]
    rcases hp with ⟨rfl, -⟩ | ⟨rfl, -⟩ <;> exact h.outFifo

/-- An emit queues the stream's next entry (43_protocol.md R173, R178). -/
theorem Squeezing.emit (h : Squeezing c n s popped (some (.emit b j k)) u) (hb : b < blockCount s.len) (hj : j < n.toNat)
    (hk : k < 243) (hroom : u.outFifo.length < u.cfg.ofifoDepth) :
    Squeezing c n s popped (some (squeezeNext s.len n.toNat b j k))
      ((u.pushOut (codeOf ((u.ctx c).digit k j))).advance (squeezeNext s.len n.toNat b j k)) := by
  refine h.micro (.emit c n rfl (decide_eq_true hroom)) (by simp [h.underway.run]) (by simp) ?_ ?_
  · rw [squeezedTo_next _ _ _ _ _ hb]
    exact h.ctx
  · rw [squeezeEmitted_next hb hj hk, List.take_add_one, squeezeBlocks_getElem? _ hb hj hk, ← List.append_assoc,
      State.advance_outFifo, State.pushOut_outFifo, h.outFifo, h.ctx]
    rfl

/-- `complete()` ends SQUEEZE with everything emitted. -/
theorem Squeezing.finish (h : Squeezing c n s popped (some .finish) u) : Squeezing c n s popped none u.complete :=
  h.micro (.finish _) rfl (fun _ => rfl) h.ctx h.outFifo

/-- An enabled micro-step of SQUEEZE is the loop's next step, and leaves one step less to go (43_protocol.md R178). -/
theorem Squeezing.coreStep (h : Squeezing c n s popped (some p) u) (hcore : u.coreEnabled = true) :
    ∃ t pos, exec (.squeeze c n) u = .next t ∧ Squeezing c n s popped pos t ∧ t.inputs = u.inputs ∧
      squeezeLeft (u.ctx c).dir n.toNat (blockCount s.len) (some p) =
        squeezeLeft (t.ctx c).dir n.toNat (blockCount s.len) pos + 1 := by
  have hexec : exec (.squeeze c n) u = .next (squeezeStep c n u ⟨.squeeze c n, s.len, p⟩) :=
    exec_busy h.underway.fatal h.underway.run
  obtain ⟨-, -, hat⟩ := h.underway.position
  cases p with
  | blockStart b =>
    cases hdir : (u.ctx c).dir with
    | squeezing =>
      rw [squeezeStep_transform rfl hdir] at hexec
      refine ⟨_, _, hexec, h.transform hdir, rfl, ?_⟩
      rw [squeezeLeft, squeezeLeft, if_pos rfl]
      omega
    | absorbing =>
      rw [squeezeStep_direction (.inr ⟨rfl, hdir⟩)] at hexec
      refine ⟨_, _, hexec, h.direction (.inr ⟨rfl, hdir⟩), rfl, ?_⟩
      rw [squeezeLeft, squeezeLeft, if_neg (by simp)]
      omega
  | direction b =>
    rw [squeezeStep_direction (.inl rfl)] at hexec
    refine ⟨_, _, hexec, h.direction (.inl ⟨rfl, hat.2⟩), rfl, ?_⟩
    rw [squeezeLeft, squeezeLeft]
    omega
  | emit b j k =>
    obtain ⟨hb, hj, hk, hdir⟩ : b < blockCount s.len ∧ j < n.toNat ∧ k < 243 ∧ (u.ctx c).dir = .squeezing := hat
    have hroom : u.outFifo.length < u.cfg.ofifoDepth := by
      simpa [State.coreEnabled, h.underway.run, h.underway.fatal, State.outHasRoom] using hcore
    rw [squeezeStep_emit rfl hroom] at hexec
    refine ⟨_, _, hexec, h.emit hb hj hk hroom, rfl, ?_⟩
    rw [State.ctx_advance, State.ctx_pushOut, hdir]
    exact squeezeLeft_next hj hk
  | finish =>
    rw [squeezeStep_finish rfl] at hexec
    exact ⟨_, _, hexec, h.finish, rfl, rfl⟩
  | _ => exact hat.elim

/-- Where the FIFO has room for the whole stream, SQUEEZE does not stall. -/
theorem Squeezing.enabled (h : Squeezing c n s popped (some p) u) (hpopped : popped ≤ s.outFifo.length)
    (hroom : s.outFifo.length + blockCount s.len * n.toNat * 243 ≤ s.cfg.ofifoDepth + popped) : u.coreEnabled = true := by
  obtain ⟨-, -, hat⟩ := h.underway.position
  obtain ⟨hcfg, -⟩ := h.underway.beside
  cases p with
  | emit b j k =>
    obtain ⟨hb, hj, hk, -⟩ : b < blockCount s.len ∧ j < n.toNat ∧ k < 243 ∧ _ := hat
    have hblock : (b + 1) * n.toNat ≤ blockCount s.len * n.toNat := Nat.mul_le_mul_right _ hb
    have hlen := congrArg List.length h.outFifo
    rw [List.length_append, List.length_drop, List.length_take, squeezeEmitted] at hlen
    rw [Nat.add_one_mul] at hblock
    have hfree : u.outFifo.length < s.cfg.ofifoDepth := by omega
    simp [State.coreEnabled, h.underway.fatal, h.underway.run, State.outHasRoom, hcfg, hfree]
  | blockStart _ | direction _ | finish => simp [State.coreEnabled, h.underway.fatal, h.underway.run]
  | _ => exact hat.elim

/-! The issue and the end. -/

theorem squeeze_passes (hc : c.toNat < s.cfg.ctxCount) (hpos : 1 ≤ n.toNat) (hn : n.toNat ≤ s.cfg.lanes)
    (hlen : s.len.toNat % 243 = 0) : issueError (.squeeze c n) s = none := by
  have hbatch : ¬(n.toNat = 0 ∨ s.cfg.lanes < n.toNat) := by omega
  simp [issueError, hc.not_ge, hbatch, hlen]

theorem Squeezing.issued (hfatal : s.fatal = false) (hrun : s.run = none) (hchecks : issueError (.squeeze c n) s = none)
    (inputs : List HostInput) :
    exec (.squeeze c n) { s with inputs := inputs } = .next ({ s with inputs := inputs }.latch (.squeeze c n)) ∧
      Squeezing c n s 0 (some (squeezeBlock s.len 0)) ({ s with inputs := inputs }.latch (.squeeze c n)) := by
  obtain ⟨hexec, hunderway⟩ := Underway.issued (c := c) hfatal hrun hchecks inputs
  refine ⟨hexec, hunderway, ?_, ?_, rfl, rfl⟩
  · rw [squeezedTo_block _ _ _ (Nat.zero_le _)]
    rfl
  · rw [squeezeEmitted_block _ (Nat.zero_le _)]
    simp [State.latch]

theorem eq_none_of_squeezeLeft {d : Direction} {batch blocks : Nat} (h : squeezeLeft d batch blocks pos = 0) : pos = none := by
  cases pos with
  | none => rfl
  | some p => cases p <;> cases h

theorem Squeezing.ended (h : Squeezing c n s popped none t) (hpopped : popped ≤ s.outFifo.length) :
    t.ctx c = (squeezeBlocks s.cfg n.toNat (s.len.toNat / 243) (s.ctx c)).1 ∧
      t.outFifo = (s.outFifo ++ (squeezeBlocks s.cfg n.toNat (s.len.toNat / 243) (s.ctx c)).2).drop popped := by
  refine ⟨h.ctx, h.outFifo.trans ?_⟩
  rw [List.drop_append_of_le_length hpopped, squeezeEmitted, blockCount_eq, List.take_of_length_le (squeezeBlocks_length ..).le]

/-! SQUEEZE alone. -/

/-- SQUEEZE, with room for all it emits, has `m` micro-steps to go. -/
def SqueezingAlone (c : CtxIdx) (n : BitVec 7) (s : State) (m : Nat) (u : State) : Prop :=
  ∃ pos, Squeezing c n s 0 pos u ∧ squeezeLeft (u.ctx c).dir n.toNat (blockCount s.len) pos = m

theorem SqueezingAlone.step {m : Nat} (hroom : s.outFifo.length + blockCount s.len * n.toNat * 243 ≤ s.cfg.ofifoDepth)
    (h : SqueezingAlone c n s (m + 1) u) : ∃ t, exec (.squeeze c n) u = .next t ∧ SqueezingAlone c n s m t := by
  obtain ⟨pos, h, hleft⟩ := h
  cases pos with
  | none => cases hleft
  | some p =>
    obtain ⟨t, pos, hexec, ht, _, hless⟩ := h.coreStep (h.enabled (Nat.zero_le _) hroom)
    exact ⟨t, hexec, pos, ht, by omega⟩

end

/-- Settles O56: with room for the whole stream no micro-step stalls, so that each leaves one step less to go. -/
theorem squeezeRunsToCompletion : Obligations.SqueezeRunsToCompletion := by
  intro c n s hfatal hrun hc hpos hn hlen hroom
  obtain ⟨hissue, hstart⟩ := Squeezing.issued hfatal hrun (squeeze_passes hc hpos hn hlen) s.inputs
  rw [batch_mul_length n.toNat hlen] at hroom
  obtain ⟨t, hrest, pos, hend, hleft⟩ :=
    execTimes_of_countdown (fun _ _ => SqueezingAlone.step hroom) ⟨_, hstart, rfl⟩
  cases eq_none_of_squeezeLeft hleft
  have hsteps : execTimes (squeezeSteps (s.ctx c).dir n.toNat s.len.toNat) (.squeeze c n) s = .next t := by
    rw [squeezeSteps_eq, execTimes_succ hissue]
    exact hrest
  obtain ⟨hctx, hout⟩ := hend.ended (Nat.zero_le _)
  exact ⟨t, hsteps, hctx, hout, hend.inFifo, hend.underway.endedOn hfatal (execTimes_sameOutside hsteps)⟩

/-! The host beside it. -/

section
variable {c : CtxIdx} {n : BitVec 7} {s u : State} {popped : Nat} {pos : Option Pos}

theorem Squeezing.world (h : Squeezing c n s popped pos u) (inputs : List HostInput) (turns : List Agent) (clock : Nat) :
    Squeezing c n s popped pos { u with inputs := inputs, turns := turns, clock := clock } :=
  ⟨h.underway.world _ _ _ _ _ _, h.ctx, h.outFifo, h.seen, h.inFifo⟩

/-- A read of the host returns the oldest entry that was queued at the issue and is still there (20_memory.md R73). -/
theorem Squeezing.pop (h : Squeezing c n s popped pos u) (hpopped : popped < s.outFifo.length) :
    ∃ t, hostInput u asmPop = .next t ∧ Squeezing c n s (popped + 1) pos t ∧ t.inputs = u.inputs ∧ t.ctx c = u.ctx c := by
  have hout := h.outFifo
  rw [List.drop_eq_getElem_cons hpopped, List.cons_append] at hout
  refine ⟨_, (outputFifoPop u).1 _ _ h.underway.fatal hout,
    ⟨h.underway.world _ _ _ _ _ _, h.ctx, rfl, ?_, h.inFifo⟩, rfl, rfl⟩
  rw [List.take_succ_eq_append_getElem hpopped, List.map_append, List.reverse_append, h.seen]
  rfl

/-- SQUEEZE, drained by the host, has `m` steps to go: its micro-steps and the reads still to come, `pops` in all. -/
def SqueezingDrained (c : CtxIdx) (n : BitVec 7) (s : State) (pops m : Nat) (u : State) : Prop :=
  ∃ pos popped toPop, Squeezing c n s popped pos u ∧ u.inputs = List.replicate toPop asmPop ∧ popped + toPop = pops ∧
    squeezeLeft (u.ctx c).dir n.toNat (blockCount s.len) pos + toPop = m

/-- Whoever moves, one step less is to go: the micro-step is made or an entry is read; a stall waits for a read
(70_reset_and_hazards.md R242). -/
theorem SqueezingDrained.step {pops m : Nat} (hpops : pops ≤ s.outFifo.length)
    (hroom : s.outFifo.length + blockCount s.len * n.toNat * 243 ≤ s.cfg.ofifoDepth + pops)
    (h : SqueezingDrained c n s pops (m + 1) u) :
    ∃ t, Machine.step u = .next t ∧ SqueezingDrained c n s pops m t := by
  obtain ⟨pos, popped, toPop, h, hinputs, rfl, hleft⟩ := h
  rcases step_micro_or_input u with
    ⟨hcore, r, ts, k, hrun, hstep⟩ | ⟨x, rest, ts, k, hx, hstep⟩ | ⟨hcore, hempty⟩
  · cases pos with
    | none => cases h.underway.run.symm.trans hrun
    | some p =>
      cases h.underway.run.symm.trans hrun
      obtain ⟨t, pos', hexec, ht, hkeep, hless⟩ := (h.world u.inputs ts k).coreStep hcore
      have hless' : squeezeLeft (u.ctx c).dir n.toNat (blockCount s.len) (some p) = _ := hless
      exact ⟨t, hstep.trans hexec, pos', popped, toPop, ht, hkeep.trans hinputs, rfl, by omega⟩
  · cases toPop with
    | zero => cases hinputs.symm.trans hx
    | succ toPop =>
      obtain ⟨rfl, rfl⟩ := List.cons.inj (hinputs.symm.trans hx)
      obtain ⟨t, hpop, ht, hkeep, hctx⟩ := (h.world (List.replicate toPop asmPop) ts k).pop (by omega)
      refine ⟨t, hstep.trans hpop, pos, popped + 1, toPop, ht, hkeep, by omega, ?_⟩
      rw [hctx]
      exact Nat.succ.inj hleft
  · obtain rfl := (List.replicate_eq_nil_iff _).mp (hinputs.symm.trans hempty)
    cases pos with
    | none => cases hleft
    | some p => cases hcore.symm.trans (h.enabled hpops hroom)

end

/-- Settles O60: the micro-steps and the reads still to come fall by one with every step, whoever makes it. -/
theorem squeezeWaitsForRoom : Obligations.SqueezeWaitsForRoom := by
  intro c n m s hfatal hrun hc hpos hn hlen hm hroom hinputs
  obtain ⟨hissue, hstart⟩ := Squeezing.issued hfatal hrun (squeeze_passes hc hpos hn hlen) (List.replicate m asmPop)
  rw [batch_mul_length n.toNat hlen] at hroom
  have hfirst := (step_issues hfatal hrun hinputs (decodeOfEncode _)).trans hissue
  obtain ⟨t, hrest, pos, popped, toPop, hend, hnone, rfl, hleft⟩ :=
    stepTimes_of_countdown (fun _ _ => SqueezingDrained.step hm hroom) ⟨_, 0, m, hstart, rfl, Nat.zero_add m, rfl⟩
  obtain ⟨hpos0, rfl⟩ := Nat.add_eq_zero_iff.mp hleft
  cases eq_none_of_squeezeLeft hpos0
  obtain ⟨hctx, hout⟩ := hend.ended hm
  refine ⟨t, ?_, hctx, hout, hend.seen, hend.inFifo, hend.underway.run, hend.underway.err rfl, hend.underway.fatal, hnone,
    hend.underway.beside⟩
  rw [squeezeSteps_eq, Nat.succ_add, stepTimes_succ hfirst]
  exact hrest

end Sys2Proof.Machine
end

section
/-! PROOFS. Two ABSORBs, or two SQUEEZEs, as one (43_protocol.md R177, R181, R183). -/

namespace Sys2Proof.Machine

/-! Runs of a given length, which the host has written to LEN. -/

section
variable {c : CtxIdx} {n : BitVec 7} {s : State} {len : Nat}

theorem toNat_ofNat_length (h : len < 2 ^ 32) : (BitVec.ofNat 32 len).toNat = len := by
  rw [BitVec.toNat_ofNat, Nat.mod_eq_of_lt h]

theorem absorb_length (hfatal : s.fatal = false) (hrun : s.run = none) (hc : c.toNat < s.cfg.ctxCount) (hpos : 1 ≤ n.toNat)
    (hn : n.toNat ≤ s.cfg.lanes) (hlen : len % 243 = 0) (hword : len < 2 ^ 32) (hdir : (s.ctx c).dir = .absorbing)
    (henough : n.toNat * len ≤ s.inFifo.length) :
    ∃ t, execTimes (absorbSteps n.toNat len) (.absorb c n) { s with len := .ofNat 32 len } = .next t ∧
      t.ctx c = absorbBlocks s.cfg n.toNat (len / 243) s.inFifo (s.ctx c) ∧ t.inFifo = s.inFifo.drop (n.toNat * len) ∧
      t.outFifo = s.outFifo ∧ EndedOn c { s with len := .ofNat 32 len } t := by
  have h := absorbRunsToCompletion c n { s with len := .ofNat 32 len } hfatal hrun hc hpos hn
  simp only [toNat_ofNat_length hword] at h
  exact h hlen hdir henough

theorem squeeze_length (hfatal : s.fatal = false) (hrun : s.run = none) (hc : c.toNat < s.cfg.ctxCount) (hpos : 1 ≤ n.toNat)
    (hn : n.toNat ≤ s.cfg.lanes) (hlen : len % 243 = 0) (hword : len < 2 ^ 32)
    (hroom : s.outFifo.length + n.toNat * len ≤ s.cfg.ofifoDepth) :
    ∃ t, execTimes (squeezeSteps (s.ctx c).dir n.toNat len) (.squeeze c n) { s with len := .ofNat 32 len } = .next t ∧
      t.ctx c = (squeezeBlocks s.cfg n.toNat (len / 243) (s.ctx c)).1 ∧
      t.outFifo = s.outFifo ++ (squeezeBlocks s.cfg n.toNat (len / 243) (s.ctx c)).2 ∧
      t.inFifo = s.inFifo ∧ EndedOn c { s with len := .ofNat 32 len } t := by
  have h := squeezeRunsToCompletion c n { s with len := .ofNat 32 len } hfatal hrun hc hpos hn
  simp only [toNat_ofNat_length hword] at h
  exact h hlen hroom

end

/-! What two runs leave alone together. -/

section
variable {c : CtxIdx} {s t t' : State} {len len' : Word}

/-- The lengths that the host writes beside a run are outside what the run touches. -/
theorem EndedOn.withLen (h : EndedOn c { s with len := len } t) (len' : Word) :
    EndedOn c { s with len := len' } { t with len := len' } := by
  obtain ⟨hrun, herr, hfatal, hresult, ⟨hcfg, -, hrest⟩, hother⟩ := h
  exact ⟨hrun, herr, hfatal, hresult, ⟨hcfg, rfl, hrest⟩, hother⟩

theorem EndedOn.trans (h : EndedOn c { s with len := len } t) (h' : EndedOn c { t with len := len' } t') :
    EndedOn c { s with len := len' } t' := by
  obtain ⟨-, -, hfatal, hresult, ⟨hcfg, -, hover, hin, hout, hinputs, hseen, hturns, hclock⟩, hother⟩ := h
  obtain ⟨hrun, herr, hfatal', hresult', ⟨hcfg', hlen, hover', hin', hout', hinputs', hseen', hturns', hclock'⟩, hother'⟩ := h'
  exact ⟨hrun, herr, hfatal'.trans hfatal, hresult'.trans hresult, ⟨hcfg'.trans hcfg, hlen, hover'.trans hover, hin'.trans hin,
    hout'.trans hout, hinputs'.trans hinputs, hseen'.trans hseen, hturns'.trans hturns, hclock'.trans hclock⟩,
    fun d hd => (hother' d hd).trans (hother d hd)⟩

/-- The contexts are one context and the others. -/
theorem ctxs_ext {s t : State} (c : CtxIdx) (hc : t.ctx c = s.ctx c) (hother : SameOtherContexts c s t) : t.ctxs = s.ctxs := by
  have hall (d : CtxIdx) : t.ctx d = s.ctx d := by
    by_cases hd : d = c
    · rw [hd, hc]
    · exact hother d hd
  exact Vector.ext fun d hd => hall (.ofFin ⟨d, hd⟩)

/-- What a command leaves is fixed by its context and the FIFOs, but for the engine's hidden state. -/
theorem EndedOn.unique (h : EndedOn c s t) (h' : EndedOn c s t') (hctx : t'.ctx c = t.ctx c) (hin : t'.inFifo = t.inFifo)
    (hout : t'.outFifo = t.outFifo) : t' = { t with engine := t'.engine } := by
  obtain ⟨hrun, herr, hfatal, hresult, ⟨hcfg, hlen, hover, hinOver, hunder, hinputs, hseen, hturns, hclock⟩, hother⟩ := h
  obtain ⟨hrun', herr', hfatal', hresult', ⟨hcfg', hlen', hover', hinOver', hunder', hinputs', hseen', hturns', hclock'⟩,
    hother'⟩ := h'
  have hctxs : t'.ctxs = t.ctxs := ctxs_ext c hctx fun d hd => (hother' d hd).trans (hother d hd).symm
  cases t
  cases t'
  simp_all

end

/-! The streams of two SQUEEZEs and of one. -/

/-- Squeezing on is squeezing more, whatever the batch sizes (43_protocol.md R181, R183). -/
theorem squeezeBlocks_ctx_add (g : Config) (batch₁ batch₂ batch m n : Nat) (x : Context) :
    (squeezeBlocks g batch₂ n (squeezeBlocks g batch₁ m x).1).1 = (squeezeBlocks g batch (m + n) x).1 := by
  rw [squeezeBlocks_add, squeezeBlocks_ctx g batch₁ batch, squeezeBlocks_ctx g batch₂ batch]

theorem squeezeBlocks_length_of {g : Config} {batch len : Nat} {x : Context} (hlen : len % 243 = 0) :
    (squeezeBlocks g batch (len / 243) x).2.length = batch * len := by
  rw [squeezeBlocks_length, batch_mul_length batch hlen]

/-- A digit of a stream that stands between two others in a FIFO; the context it is read from does not depend on the batch size. -/
theorem squeezed_getElem? {g : Config} {batch n b j k : Nat} {x : Context} (l r : List Byte) (hb : b < n) (hj : j < batch)
    (hk : k < 243) (batch' : Nat) :
    (l ++ (squeezeBlocks g batch n x).2 ++ r)[l.length + ((b * batch + j) * 243 + k)]? =
      some (codeOf ((squeezeBlocks g batch' (b + 1) x).1.digit k j)) := by
  have h := squeezeBlocks_getElem? (g := g) x hb hj hk
  obtain ⟨hi, -⟩ := List.getElem?_eq_some_iff.mp h
  rw [List.append_assoc, List.getElem?_append_right (Nat.le_add_right _ _), Nat.add_sub_cancel_left,
    List.getElem?_append_left hi, h, squeezeBlocks_ctx g batch batch']

/-! Two runs and one. -/

section
variable {c : CtxIdx} {n : BitVec 7} {s : State} {l₁ l₂ : Nat}

/-- Two ABSORBs pop what one of their lengths together pops, and leave the same machine (43_protocol.md R177). -/
theorem absorb_split (hfatal : s.fatal = false) (hrun : s.run = none) (hc : c.toNat < s.cfg.ctxCount) (hpos : 1 ≤ n.toNat)
    (hn : n.toNat ≤ s.cfg.lanes) (hl₁ : l₁ % 243 = 0) (hl₂ : l₂ % 243 = 0) (hword : l₁ + l₂ < 2 ^ 32)
    (hdir : (s.ctx c).dir = .absorbing) (henough : n.toNat * (l₁ + l₂) ≤ s.inFifo.length) :
    ∃ t₁ t₂ t,
      execTimes (absorbSteps n.toNat l₁) (.absorb c n) { s with len := .ofNat 32 l₁ } = .next t₁ ∧
      execTimes (absorbSteps n.toNat l₂) (.absorb c n) { t₁ with len := .ofNat 32 l₂ } = .next t₂ ∧
      execTimes (absorbSteps n.toNat (l₁ + l₂)) (.absorb c n) { s with len := .ofNat 32 (l₁ + l₂) } = .next t ∧
      EndedOn c { s with len := .ofNat 32 l₁ } t₁ ∧ EndedOn c { s with len := .ofNat 32 (l₁ + l₂) } t ∧
      t.inFifo = s.inFifo.drop (n.toNat * (l₁ + l₂)) ∧ t₂ = { t with len := .ofNat 32 l₂, engine := t₂.engine } := by
  have hblocks : (l₁ + l₂) / 243 = l₁ / 243 + l₂ / 243 := by omega
  have hsum := Nat.mul_add n.toNat l₁ l₂
  obtain ⟨t₁, hrun₁, hctx₁, hin₁, hout₁, hend₁⟩ := absorb_length hfatal hrun hc hpos hn hl₁ (by omega) hdir (by omega)
  obtain ⟨t, hrun', hctx, hin, hout, hend⟩ := absorb_length hfatal hrun hc hpos hn (by omega) hword hdir henough
  have ⟨hidle₁, _, hfatal₁, _, ⟨hcfg₁, _⟩, _⟩ := hend₁
  have hlen₁ : t₁.inFifo.length = s.inFifo.length - n.toNat * l₁ := by rw [hin₁, List.length_drop]
  obtain ⟨t₂, hrun₂, hctx₂, hin₂, hout₂, hend₂⟩ := absorb_length (hfatal₁.trans hfatal) hidle₁ (hcfg₁ ▸ hc) hpos
    (hcfg₁ ▸ hn) hl₂ (by omega) (by rw [hctx₁, absorbBlocks_dir, hdir]) (by omega)
  have hctx' : t₂.ctx c = t.ctx c := by
    rw [hctx₂, hctx, hctx₁, hin₁, hblocks, absorbBlocks_add, ← Nat.mul_assoc, ← batch_mul_length n.toNat hl₁, hcfg₁]
  have hin' : t₂.inFifo = t.inFifo := by rw [hin₂, hin, hin₁, List.drop_drop, hsum]
  exact ⟨t₁, t₂, t, hrun₁, hrun₂, hrun', hend₁, hend, hin,
    (hend.withLen _).unique (hend₁.trans hend₂) hctx' hin' (hout₂.trans (hout₁.trans hout.symm))⟩

/-- Two SQUEEZEs leave the context that one of their lengths together leaves, whatever the batch sizes (43_protocol.md R181, R183). -/
theorem squeeze_split {n₁ n₂ : BitVec 7} (hfatal : s.fatal = false) (hrun : s.run = none) (hc : c.toNat < s.cfg.ctxCount)
    (hpos₁ : 1 ≤ n₁.toNat) (hn₁ : n₁.toNat ≤ s.cfg.lanes) (hpos₂ : 1 ≤ n₂.toNat) (hn₂ : n₂.toNat ≤ s.cfg.lanes)
    (hpos : 1 ≤ n.toNat) (hn : n.toNat ≤ s.cfg.lanes) (hl₁ : l₁ % 243 = 0) (hl₂ : l₂ % 243 = 0) (hword : l₁ + l₂ < 2 ^ 32)
    (hroom₂ : s.outFifo.length + n₁.toNat * l₁ + n₂.toNat * l₂ ≤ s.cfg.ofifoDepth)
    (hroom : s.outFifo.length + n.toNat * (l₁ + l₂) ≤ s.cfg.ofifoDepth) :
    ∃ t₁ t₂ t,
      execTimes (squeezeSteps (s.ctx c).dir n₁.toNat l₁) (.squeeze c n₁) { s with len := .ofNat 32 l₁ } = .next t₁ ∧
      execTimes (squeezeSteps (t₁.ctx c).dir n₂.toNat l₂) (.squeeze c n₂) { t₁ with len := .ofNat 32 l₂ } = .next t₂ ∧
      execTimes (squeezeSteps (s.ctx c).dir n.toNat (l₁ + l₂)) (.squeeze c n) { s with len := .ofNat 32 (l₁ + l₂) } = .next t ∧
      EndedOn c { s with len := .ofNat 32 l₁ } t₁ ∧ EndedOn c { s with len := .ofNat 32 l₂ } t₂ ∧
      EndedOn c { s with len := .ofNat 32 (l₁ + l₂) } t ∧ t₂.ctx c = t.ctx c ∧ t₂.inFifo = t.inFifo ∧
      t₁.outFifo = s.outFifo ++ (squeezeBlocks s.cfg n₁.toNat (l₁ / 243) (s.ctx c)).2 ∧
      t₂.outFifo = t₁.outFifo ++
        (squeezeBlocks s.cfg n₂.toNat (l₂ / 243) (squeezeBlocks s.cfg n₁.toNat (l₁ / 243) (s.ctx c)).1).2 ∧
      t.outFifo = s.outFifo ++ (squeezeBlocks s.cfg n.toNat (l₁ / 243 + l₂ / 243) (s.ctx c)).2 := by
  have hblocks : (l₁ + l₂) / 243 = l₁ / 243 + l₂ / 243 := by omega
  obtain ⟨t₁, hrun₁, hctx₁, hout₁, hin₁, hend₁⟩ := squeeze_length hfatal hrun hc hpos₁ hn₁ hl₁ (by omega) (by omega)
  obtain ⟨t, hrun', hctx, hout, hin, hend⟩ := squeeze_length hfatal hrun hc hpos hn (len := l₁ + l₂) (by omega) hword hroom
  have ⟨hidle₁, _, hfatal₁, _, ⟨hcfg₁, _⟩, _⟩ := hend₁
  have hlen₁ : t₁.outFifo.length = s.outFifo.length + n₁.toNat * l₁ := by
    rw [hout₁, List.length_append, squeezeBlocks_length_of hl₁]
  obtain ⟨t₂, hrun₂, hctx₂, hout₂, hin₂, hend₂⟩ := squeeze_length (hfatal₁.trans hfatal) hidle₁ (hcfg₁ ▸ hc) hpos₂
    (hcfg₁ ▸ hn₂) hl₂ (by omega) (by rw [hlen₁, hcfg₁]; exact hroom₂)
  rw [hcfg₁, hctx₁] at hctx₂ hout₂
  rw [hblocks] at hctx hout
  exact ⟨t₁, t₂, t, hrun₁, hrun₂, hrun', hend₁, hend₁.trans hend₂, hend, by rw [hctx₂, hctx, squeezeBlocks_ctx_add],
    hin₂.trans (hin₁.trans hin.symm), hout₁, hout₂, hout⟩

end

/-- Settles O58: the block loops are cut in two, and every digit is known by its place in the stream. -/
theorem blocksSplit : Obligations.BlocksSplit := by
  constructor
  · intro c n s l₁ l₂ hfatal hrun hc hpos hn hl₁ hl₂ hword hdir henough
    obtain ⟨t₁, t₂, t, hrun₁, hrun₂, hrun', ⟨hidle₁, herr₁, _⟩, ⟨hidle, herr, _⟩, hin, hsame⟩ :=
      absorb_split hfatal hrun hc hpos hn hl₁ hl₂ hword hdir henough
    exact ⟨t₁, t₂, t, hrun₁, hrun₂, hrun', hidle₁, herr₁, hidle, herr, hin, hsame⟩
  · intro c n₁ n₂ n s l₁ l₂ hfatal hrun hc hpos₁ hn₁ hpos₂ hn₂ hpos hn hl₁ hl₂ hword hroom₂ hroom
    obtain ⟨t₁, t₂, t, hrun₁, hrun₂, hrun', hend₁, hend₂, hend, hctx, hin, hout₁, hout₂, hout⟩ :=
      squeeze_split hfatal hrun hc hpos₁ hn₁ hpos₂ hn₂ hpos hn hl₁ hl₂ hword hroom₂ hroom
    have hlen₁ : t₁.outFifo.length = s.outFifo.length + n₁.toNat * l₁ := by
      rw [hout₁, List.length_append, squeezeBlocks_length_of hl₁]
    have hlen₂ : t₂.outFifo.length = s.outFifo.length + n₁.toNat * l₁ + n₂.toNat * l₂ := by
      rw [hout₂, List.length_append, hlen₁, squeezeBlocks_length_of hl₂]
    have hlen : t.outFifo.length = s.outFifo.length + n.toNat * (l₁ + l₂) := by
      rw [hout, List.length_append, ← Nat.add_div_of_dvd_right (Nat.dvd_of_mod_eq_zero hl₁), squeezeBlocks_length_of (by omega)]
    have ⟨hidle₁, herr₁, _⟩ := hend₁
    have ⟨hidle₂, herr₂, _⟩ := hend₂
    have ⟨hidle, herr, _⟩ := hend
    refine ⟨t₁, t₂, t, hrun₁, hrun₂, hrun', hidle₁, herr₁, hidle₂, herr₂, hidle, herr, hctx, hlen₂, hlen,
      fun b j k hb hj₁ hj hk => ?_, fun b j k hb hj₂ hj hk => ?_, fun h₁ h₂ => ?_⟩
    · rw [hout₂, hout₁, hout, squeezed_getElem? _ _ hb hj₁ hk n.toNat,
        ← List.append_nil (s.outFifo ++ _), squeezed_getElem? _ _ (by omega) hj hk n.toNat]
    · rw [← hlen₁, hout₂, hout, ← List.append_nil (t₁.outFifo ++ _), squeezed_getElem? _ _ hb hj₂ hk n.toNat,
        ← List.append_nil (s.outFifo ++ _), squeezed_getElem? _ _ (by omega) hj hk n.toNat,
        squeezeBlocks_ctx_add _ _ _ n.toNat, Nat.add_assoc]
    · subst h₁ h₂
      refine (hend.withLen _).unique hend₂ hctx hin ?_
      change t₂.outFifo = t.outFifo
      rw [hout₂, hout₁, hout, squeezeBlocks_add, List.append_assoc]

end Sys2Proof.Machine
end

section
/-! PROOFS. The issue of a command by the check table, a command that cannot fail once it runs, the halted block, and the result codes
(60_exceptions.md R200 to R206; 10_state.md R32, R40). -/

namespace Sys2Proof.Machine

/-! A CMD write at Idle. -/

/-- The position latched at issue is the protocol's first micro-step: with no block to do, `complete()` (43_protocol.md R176, R180). -/
theorem startPos_eq_firstStep (i : Instr) (len : Word) : startPos i len = firstStep i len := by
  cases i with
  | absorb | squeeze => exact (if_congr Nat.pos_iff_ne_zero rfl rfl).trans (ite_not _ _ _)
  | _ => rfl

/-- The one fatal code is written to ERR and halts the block (60_exceptions.md R205). -/
theorem raise_absorbAfterSqueeze (s : State) :
    s.raise .absorbAfterSqueeze = { s with err := .absorbAfterSqueeze, fatal := true } := by
  simp [State.raise, ErrCode.isFatal]

/-- A command that fails the direction check halts the block at its issue (60_exceptions.md R203, R205). -/
theorem exec_halting {i : Instr} {s : State} (hfatal : s.fatal = false) (hrun : s.run = none)
    (h : issueError i s = some .absorbAfterSqueeze) :
    exec i s = .next { s with err := .absorbAfterSqueeze, fatal := true } := by
  rw [exec_idle hfatal hrun, issue_failed ((firstFailure_issueChecks i s).trans h), raise_absorbAfterSqueeze]

/-- Settles O18: by what the word decodes to, then by what the check table says; one code of the table is fatal. -/
theorem issueFollowsCheckTable : Obligations.IssueFollowsCheckTable := by
  intro s w hfatal hrun
  rw [hostWrite_cmd hfatal]
  cases hw : decode w with
  | error e => rw [commandWrite_illegal hrun hw, raise_illegalCommand]
  | ok i =>
    rw [commandWrite_decoded hrun hw]
    dsimp only
    cases hcheck : issueError i s with
    | none => rw [exec_issued hfatal hrun hcheck, startPos_eq_firstStep]
    | some e =>
      cases e with
      | absorbAfterSqueeze => exact exec_halting hfatal hrun hcheck
      | _ => exact exec_rejected hfatal hrun rfl hcheck

/-! A running command. -/

/-- A micro-step that ends its command leaves ERR = 0: one that only moves on keeps a command running (60_exceptions.md R204). -/
theorem MicroEffect.err_of_ended {s t : State} {r : Running} {i : Instr} (h : MicroEffect s r i t) (hrun : s.run ≠ none)
    (hend : t.run = none) : t.err = .ok := by
  cases h with
  | stall => exact absurd hend hrun
  | finish | reset | clone | encode | decode => rfl
  | permute | merge | absorbTransform | squeezeTransform | direction | emit =>
    exact absurd (Option.map_eq_none_iff.mp hend) hrun

/-- Settles O36: by what a step of a command can do; a failed issue is at Idle and leaves the block there, and of the others only a
micro-step writes ERR. -/
theorem runningCommandsCannotFail : Obligations.RunningCommandsCannotFail := by
  intro i s
  obtain ⟨t, h⟩ := exec_answers i s
  refine ⟨t, h, ?_⟩
  rcases exec_effect h with ⟨_, rfl⟩ | ⟨_, hidle, e, rfl⟩ | ⟨_, hidle, _, rfl⟩ | ⟨_, r, hbusy, hmicro⟩
  · exact ⟨fun _ => ⟨rfl, .inl rfl⟩, fun hrun hend => absurd hend hrun, fun hne => absurd rfl hne, fun _ _ => rfl⟩
  · exact ⟨fun hrun => absurd hidle hrun, fun hrun => absurd hidle hrun, fun _ => hidle, fun _ hrun => absurd hidle hrun⟩
  · exact ⟨fun hrun => absurd hidle hrun, fun hrun => absurd hidle hrun, fun hne => absurd rfl hne, fun _ _ => rfl⟩
  · have hrun : s.run ≠ none := by simp [hbusy]
    obtain ⟨hfatal, herr⟩ := hmicro.status
    exact ⟨fun _ => ⟨hfatal, herr⟩, fun _ hend _ => hmicro.err_of_ended hrun hend,
      fun hne => (herr.resolve_left hne).2, fun hidle => absurd hidle hrun⟩

/-! The halted block. -/

theorem coreEnabled_halted {s : State} (h : s.fatal = true) : s.coreEnabled = false := by
  simp [State.coreEnabled, h]

/-- Settles O37: agent by agent and access by access; a step that clears FATAL takes a hardware reset. -/
theorem haltedBlockIsFrozen : Obligations.HaltedBlockIsFrozen := by
  intro s hfatal
  obtain ⟨-, -, hpop, -⟩ := outputFifoPop s
  refine ⟨coreEnabled_halted hfatal, fun i => exec_halted i hfatal, fun off v ha hw => hostWrite_halted ha hw hfatal, hpop hfatal,
    fun off => hostRead_plain, fun t h => ?_⟩
  cases ht : t.fatal with
  | true => exact .inl rfl
  | false => exact .inr (step_clears_fatal hfatal h ht)

/-! The result codes. -/

theorem ErrCode.number_le (e : ErrCode) : e.number.toNat ≤ 8 := by
  cases e <;> decide

/-- Settles O41: code by code. -/
theorem errorCodeNumbers : Obligations.ErrorCodeNumbers :=
  ⟨⟨rfl, rfl, rfl, rfl, rfl, rfl, rfl, rfl, rfl⟩, ErrCode.number_le⟩

end Sys2Proof.Machine
end

section
/-! PROOFS. The stalls of ABSORB and SQUEEZE (70_reset_and_hazards.md R242). -/

namespace Sys2Proof.Machine

/-! A merge with no entry to pop. -/

theorem coreEnabled_merge {s : State} {r : Running} {b j k : Nat} (hfatal : s.fatal = false) (hrun : s.run = some r)
    (hpos : r.pos = .merge b j k) : s.coreEnabled = !s.inFifo.isEmpty := by
  simp [State.coreEnabled, hfatal, hrun, hpos]

theorem absorbStep_starved {s : State} {r : Running} {b j k : Nat} (hpos : r.pos = .merge b j k) (hempty : s.inFifo = [])
    (c : CtxIdx) (n : BitVec 7) : absorbStep c n s r = s := by
  simp [absorbStep, hpos, hempty]

/-! An emit with no room to push. -/

theorem State.outHasRoom_full {s : State} (h : s.cfg.ofifoDepth ≤ s.outFifo.length) : s.outHasRoom = false :=
  decide_eq_false h.not_gt

theorem coreEnabled_emit {s : State} {r : Running} {b j k : Nat} (hfatal : s.fatal = false) (hrun : s.run = some r)
    (hpos : r.pos = .emit b j k) : s.coreEnabled = s.outHasRoom := by
  simp [State.coreEnabled, hfatal, hrun, hpos]

theorem squeezeStep_full {s : State} {r : Running} {b j k : Nat} (hpos : r.pos = .emit b j k)
    (hfull : s.outHasRoom = false) (c : CtxIdx) (n : BitVec 7) : squeezeStep c n s r = s := by
  simp [squeezeStep, hpos, hfull]

/-- Settles O30: at a merge the core is enabled by an entry, at an emit by room; where there is none, the micro-step is the identity,
and with no access pending neither agent moves. -/
theorem stalledCommandsWait : Obligations.StalledCommandsWait := by
  refine fun c n s r b j k hfatal hrun => ⟨fun hpos hempty => ?_, fun hpos hfull => ?_⟩
  · have hcore : s.coreEnabled = false := by simp [coreEnabled_merge hfatal hrun hpos, hempty]
    have hexec := (exec_busy (i := .absorb c n) hfatal hrun).trans (congrArg _ (absorbStep_starved hpos hempty c n))
    exact ⟨hcore, hexec, fun hinputs => step_neither hcore (State.hostEnabled_of_nil hinputs)⟩
  · have hroom := State.outHasRoom_full hfull
    have hcore : s.coreEnabled = false := (coreEnabled_emit hfatal hrun hpos).trans hroom
    have hexec := (exec_busy (i := .squeeze c n) hfatal hrun).trans (congrArg _ (squeezeStep_full hpos hroom c n))
    exact ⟨hcore, hexec, fun hinputs => step_neither hcore (State.hostEnabled_of_nil hinputs)⟩

end Sys2Proof.Machine
end
